-- ==== Sys2Proof/Word.lean ====
section
/-! DEFINITION. The word types of the simplebus core (spec/00_scope.md R7, R12, R14). -/

namespace Sys2Proof

/-- One byte of the narrow bus: "a bidirectional byte-wide data bus" (R12). -/
abbrev Byte := BitVec 8

/-- A wide-bus data word. D is a run-time parameter of at most 64 (R7), so a word of a narrower
configuration stands in the low D bits and the bits above are 0 (log 8). -/
abbrev Data := BitVec 64

/-- A byte-select mask: ND bits, at most 8 (R7); the bits above ND are 0 (log 8). -/
abbrev Select := BitVec 8

/-! A wide-bus address is a plain natural below `2^A`: A is a run-time parameter with no upper bound in R7, so no fixed
vector type holds it (log 8). -/

end Sys2Proof
end

