-- ==== Sys2Proof/Config.lean ====
section
/-! DEFINITION. The configuration record of spec/00_scope.md R7 to R11, the constants R10 fixes, and the
values the spec leaves free. -/

namespace Sys2Proof

/-- The widths one end of the link is built with, in bits (R7): `a` of an address, `d` of a data word. -/
structure Widths where
  a : Nat
  d : Nat
  deriving DecidableEq, Repr

namespace Widths

/-- `NA = A/8`, the number of address bytes in a frame (R7). -/
def na (w : Widths) : Nat := w.a / 8

/-- `ND = D/8`, the number of data bytes and of byte-select bits (R7). -/
def nd (w : Widths) : Nat := w.d / 8

/-- "the default is `A = 32`, `D = 64`" (R7). -/
def default : Widths := { a := 32, d := 64 }

end Widths

/-- `STROBE_VARIANT` (R8): which of the two strobe generators is built. -/
inductive StrobeVariant
  | tapEdge
  | modN
  deriving DecidableEq, Repr

/-- `ENABLE_SEMANTICS` (R10): what the enable bit of CONFIG does (40_strobe.md R124). -/
inductive EnableSemantics
  | gateStrobe
  | storedOnly
  deriving DecidableEq, Repr

/-- How the responder is stepped (45_link_and_transactions.md R257 (a), 70_reset_and_hazards.md R322). -/
inductive ResponderPacing
  | perPeripheralCycle
  | otherClock
  deriving DecidableEq, Repr

/-- The configuration record: fixed for a machine, changed by no step. -/
structure Params where
  /-- A and D of the host end. -/
  hostWidths : Widths
  /-- A and D of the peripheral end; "both ends must share" them (R99), which the hardware cannot check. -/
  periphWidths : Widths
  strobeVariant : StrobeVariant
  /-- `PARITY_INVERT` (R9). -/
  parityInvert : Bool
  enableSemantics : EnableSemantics
  /-- `BUS_FLOAT` (R11): a byte the platform supplies, or `none` for "an unconstrained value drawn
  afresh each cycle". -/
  busFloat : Option Byte
  /-- `CFG_RESET_DIVISOR`, OPEN (R10). -/
  cfgResetDivisor : BitVec 3
  /-- `CFG_RESET_ENABLE`, OPEN (R10). -/
  cfgResetEnable : Bool
  /-- `HOST_READ_SEL` (R11): fixed to 0; 1 is refused. -/
  hostReadSel : Bool
  /-- Peripherals on the narrow bus (45 R266): one; none leaves the host alone (60 R284); more are refused. -/
  peripherals : Nat
  responderPacing : ResponderPacing
  deriving DecidableEq, Repr

namespace Params

/-- The defaults of R7 to R11. The two OPEN reset parameters have none; 0 is a DESIGN CHOICE (log 3). -/
def default : Params where
  hostWidths := Widths.default
  periphWidths := Widths.default
  strobeVariant := .tapEdge
  parityInvert := false
  enableSemantics := .gateStrobe
  busFloat := none
  cfgResetDivisor := 0
  cfgResetEnable := false
  hostReadSel := false
  peripherals := 1
  responderPacing := .perPeripheralCycle

/-- Whether a peripheral hangs on the narrow bus. -/
def attached (p : Params) : Bool := p.peripherals == 1

end Params

namespace Config

/-- `CFG_OFFSET` (R10). -/
def cfgOffset : BitVec 3 := 0x0
/-- `STATUS_OFFSET` (R10). -/
def statusOffset : BitVec 3 := 0x4
/-- `CFG_DIV_LSB` (R10). -/
def cfgDivLsb : Nat := 0
/-- `CFG_EN_BIT` (R10). -/
def cfgEnBit : Nat := 3

/-- The byte drawn, at the n-th draw, from a narrow bus that nobody drives when `BUS_FLOAT` is not a
platform byte (R11, D22; log 6). No body: nothing constrains it. -/
opaque floatByte : Nat → Byte

/-- The level drawn from a parity line that nobody drives (91_not_in_source.md N11; log 7). No body. -/
opaque floatParity : Nat → Bool

end Config

end Sys2Proof
end

