-- ==== Sys2Proof/Syntax.lean ====
section
/-! DEFINITION. The command bytes and the frames they open (spec/30_encoding.md R91, R94 to R97). -/

namespace Sys2Proof

/-- The four command bytes of spec/opcode_table.json: "The command vocabulary is exactly four bytes" (R91).
The byte itself has no operand fields; what follows it on the wire is a `Frame`. -/
inductive Instr
  /-- READ, `0x02`, host to peripheral: opens a read request frame (R95, 45 R261). -/
  | read
  /-- WRITE, `0x03`, host to peripheral: opens a write request frame (R94, 45 R260). -/
  | write
  /-- READ_ACK, `0x82`, peripheral to host: read performed, data follows (R97, 45 R263). -/
  | readAck
  /-- WRITE_ACK, `0x83`, peripheral to host: write performed (R96, 45 R262). -/
  | writeAck
  deriving DecidableEq, Repr

/-- "direction: Read|Write" (R108), the argument of the codec functions (41_codec.md R140 to R142). -/
inductive Direction
  | read
  | write
  deriving DecidableEq, Repr

/-- "the ordered byte sequence (command, address, select, data) that encodes one bus transaction over the
narrow serial bus" (R18), and the answers to it. -/
inductive Frame
  /-- Read request: address (R95). -/
  | read (addr : Nat)
  /-- Write request: address, select, data (R94). -/
  | write (addr : Nat) (sel : Select) (data : Data)
  /-- Read response: data (R97). -/
  | readAck (data : Data)
  /-- Write response (R96). -/
  | writeAck
  deriving DecidableEq, Repr

/-- The command byte a frame begins with. -/
def Frame.command : Frame → Instr
  | .read _ => .read
  | .write _ _ _ => .write
  | .readAck _ => .readAck
  | .writeAck => .writeAck

end Sys2Proof
end

