-- ==== Sys2Proof/Machine/State.lean ====
section
/-! DEFINITION. The state of the composed system as plain data (spec/10_state.md R20 to R43), the pins of a cycle
(spec/00_scope.md R17), the reasons a step can stop (spec/60_exceptions.md R285) and the state after reset
(R43, spec/70_reset_and_hazards.md R310). -/

namespace Sys2Proof.Machine

/-- The eleven states of the Host Controller (R25). READ_SEL is not part of the spec (D17). -/
inductive HState
  | idle
  | writeCmd
  | writeAddr
  | writeSel
  | writeData
  | writeAck
  | readCmd
  | readAddr
  | readAck
  | readData
  | wishboneAck
  deriving DecidableEq, Repr

/-- The ten states of the Peripheral Controller (R28). -/
inductive PState
  | idle
  | writeAddr
  | writeSel
  | writeData
  | writeWishbone
  | writeAck
  | readAddr
  | readWishbone
  | readAck
  | readData
  deriving DecidableEq, Repr

/-- Clock Strobe Generator: `ctr`, `prev` (R22, R23), and `cd` of the variant ModN (R24). The registers of the
variant that is not built are dormant (log 13). -/
structure StrobeRegs where
  ctr : BitVec 8
  prev : Bool
  cd : BitVec 8
  deriving DecidableEq, Repr

/-- Host Controller (R25 to R27). -/
structure HostRegs where
  hstate : HState
  haddr : Nat
  hdata : Data
  hsel : Select
  hcount : Nat
  hout : Byte
  deriving DecidableEq, Repr

/-- Peripheral Controller (R28 to R30). -/
structure PeriphRegs where
  pstate : PState
  paddr : Nat
  pdata : Data
  psel : Select
  pcount : Nat
  pout : Byte
  deriving DecidableEq, Repr

/-- Configuration Register File (R31 to R33): the stored fields of CONFIG, and STATUS. -/
structure ConfigRegs where
  cfgDiv : BitVec 3
  cfgEn : Bool
  status : BitVec 32
  deriving DecidableEq, Repr

/-- The input pins of one cycle (00_scope.md R17, 70 R310), driven by the environment agents of 45 R250. -/
structure Pins where
  rst : Bool
  wbCyc : Bool
  wbStb : Bool
  wbWe : Bool
  wbAdr : Nat
  wbDatW : Data
  wbSel : Select
  /-- The responder acknowledges, should it be asked (R257 (b)). -/
  rAck : Bool
  /-- What a read returns: `none` for the word `mem` holds, `some q` for a responder that answers otherwise
  (a device, another writer; log 14). -/
  rDatR : Option Data
  rbWe : Bool
  rbAdr : BitVec 3
  rbDatW : BitVec 32
  rbSel : BitVec 4
  deriving DecidableEq, Repr

/-- The pins once the schedule has run out (log 2): no reset, no request, no register-bus write; the responder is
the ideal one of 95_test_vectors.md with wait 0. -/
def Pins.quiet : Pins where
  rst := false
  wbCyc := false
  wbStb := false
  wbWe := false
  wbAdr := 0
  wbDatW := 0
  wbSel := 0
  rAck := true
  rDatR := none
  rbWe := false
  rbAdr := 0
  rbDatW := 0
  rbSel := 0

/-- The responder's memory: cells (key, byte), keys strictly rising, no byte 0 listed. -/
abbrev Memory := List Host.Cell

/-- The composed system (45_link_and_transactions.md R250). -/
structure State where
  /-- The configuration record; no step changes it. -/
  params : Params
  gen : StrobeRegs
  host : HostRegs
  periph : PeriphRegs
  cfg : ConfigRegs
  mem : Memory
  /-- The pins of this cycle (head) and of the following cycles. -/
  inputs : List Pins
  /-- The index of the next free draw (log 6). -/
  draws : Nat
  deriving DecidableEq, Repr

/-- Model-level faults: "conditions the hardware does not detect but under which the pins or the protocol are
undefined" (R285). All are safe: the machine stops where the hardware goes on with undefined pins. -/
inductive Fault
  /-- Both ends drive the narrow bus in one cycle (45 R252). Raised by `State.stop?`. Safe. -/
  | busContention
  /-- A CONFIG write changes `cfg_div` while a controller is busy or a request is pending (70 R320). Raised by
  `State.stop?`. Safe. -/
  | unsafeDivisorChange
  /-- A CONFIG write clears `cfg_en` while a controller is busy or a request is pending (70 R321). Raised by
  `State.stop?`. Safe. -/
  | unsafeEnableChange
  deriving DecidableEq, Repr

/-- Why a machine is not run at all. All but the first are configurations the spec says a model refuses (R285);
all are safe. -/
inductive Refusal
  /-- An arm of `exec` without a meaning. Raised by no arm of this model. Safe. -/
  | notModelled (mnemonic : String)
  /-- Widths outside R7 (D7, U19). Raised by `refusalOf`. Safe. -/
  | widthsOutsideR7
  /-- `HOST_READ_SEL = 1` (D17, U18). Raised by `refusalOf`. Safe. -/
  | hostReadSel
  /-- More than one peripheral (D35, U20). Raised by `refusalOf`. Safe. -/
  | severalPeripherals
  /-- A responder not stepped per peripheral cycle (R322, U22). Raised by `refusalOf`. Safe. -/
  | responderPacing
  deriving DecidableEq, Repr

/-- The strobe generator's reset values (R43). -/
def StrobeRegs.reset : StrobeRegs where
  ctr := 0
  prev := false
  cd := 0

/-- The host's reset values (R43). -/
def HostRegs.reset : HostRegs where
  hstate := .idle
  haddr := 0
  hdata := 0
  hsel := 0
  hcount := 0
  hout := 0

/-- The peripheral's reset values (R43). -/
def PeriphRegs.reset : PeriphRegs where
  pstate := .idle
  paddr := 0
  pdata := 0
  psel := 0
  pcount := 0
  pout := 0

/-- The register file's reset values (R43): CONFIG takes the OPEN parameters. -/
def ConfigRegs.reset (p : Params) : ConfigRegs where
  cfgDiv := p.cfgResetDivisor
  cfgEn := p.cfgResetEnable
  status := 0

/-- The machine built with configuration `p`, right after reset, its memory untouched and nothing scheduled. -/
def State.resetWith (p : Params) : State where
  params := p
  gen := StrobeRegs.reset
  host := HostRegs.reset
  periph := PeriphRegs.reset
  cfg := ConfigRegs.reset p
  mem := []
  inputs := []
  draws := 0

/-- The machine of the default configuration right after reset (R43; log 3 for the two OPEN parameters). -/
def State.reset : State := State.resetWith Params.default

end Sys2Proof.Machine
end

