-- ==== Sys2Proof/Machine/Operands.lean ====
section
/-! DEFINITION. How operands are cut into bytes and put together again (spec/30_encoding.md R100 to R102,
spec/00_scope.md R14, R16), and how the pins of a cycle are read as operands (R108). -/

namespace Sys2Proof.Machine

/-- The low `d` bits of a data word: a `D`-bit bus has no more (R7). -/
def lowData (d : Nat) (v : Data) : Data := (v.setWidth d).setWidth 64

/-- The low `nd` bits of a select mask (R102). -/
def lowSelect (nd : Nat) (v : Select) : Select := (v.setWidth nd).setWidth 8

/-- `addr[7:0]`. -/
def addrByte (v : Nat) : Byte := BitVec.ofNat 8 v

/-- `addr >> 8`: logical, zero fill (R16 (c)). -/
def addrShift (v : Nat) : Nat := v / 256

/-- `{b, addr[A-1:8]}`; for `A = 8` it is `b` (R100). -/
def addrInsert (a : Nat) (b : Byte) (v : Nat) : Nat := v / 256 + b.toNat * 2 ^ (a - 8)

/-- `data[7:0]`. -/
def dataByte (v : Data) : Byte := v.setWidth 8

/-- `data >> 8`: logical, zero fill (R16 (c)). -/
def dataShift (v : Data) : Data := v >>> 8

/-- `{b, data[D-1:8]}`; for `D = 8` it is `b` (R101). -/
def dataInsert (d : Nat) (b : Byte) (v : Data) : Data := v >>> 8 ||| b.setWidth 64 <<< (d - 8)

/-- `2^ND - 1`, the select mask of a read (R39). -/
def allSelected (nd : Nat) : Select := lowSelect nd 0xFF

/-- "A request is pending in a cycle when `wb_cyc = 1` and `wb_stb = 1`" (R108). -/
def Pins.pending (p : Pins) : Bool := p.wbCyc && p.wbStb

/-- A pending write: `wb_we = 1` (R108). -/
def Pins.pendingWrite (p : Pins) : Bool := p.pending && p.wbWe

/-- A pending read: `wb_we = 0` (R108). -/
def Pins.pendingRead (p : Pins) : Bool := p.pending && !p.wbWe

/-- `wb_adr`: "the address is the `A`-bit value on `wb_adr`, no more bits exist" (20_memory.md R66). -/
def Pins.addr (w : Widths) (p : Pins) : Nat := p.wbAdr % 2 ^ w.a

/-- `wb_dat_w[D-1:0]`. -/
def Pins.data (w : Widths) (p : Pins) : Data := lowData w.d p.wbDatW

/-- `wb_sel[ND-1:0]`. -/
def Pins.sel (w : Widths) (p : Pins) : Select := lowSelect w.nd p.wbSel

end Sys2Proof.Machine
end

