-- ==== Sys2Proof/Machine/ConfigFile.lean ====
section
/-! DEFINITION. The Configuration Register File (spec/44_config_regs.md R230 to R236). -/

namespace Sys2Proof.Machine

/-- "The register addressed in a cycle is chosen by `rb_adr[2]` (0 CONFIG, 1 STATUS); `rb_adr[1:0]` is ignored"
(R230): whether the offset falls in the word at `base`. -/
def sameWord (base adr : BitVec 3) : Bool := adr >>> 2 == base >>> 2

/-- CONFIG as a word: enable at `CFG_EN_BIT`, divisor from `CFG_DIV_LSB`, the rest 0 (R32, R231). -/
def ConfigRegs.configWord (c : ConfigRegs) : BitVec 32 :=
  c.cfgDiv.setWidth 32 <<< Config.cfgDivLsb ||| (BitVec.ofBool c.cfgEn).setWidth 32 <<< Config.cfgEnBit

/-- `rb_dat_r`: "Reads return the currently held value combinationally" (R231). -/
def ConfigRegs.read (c : ConfigRegs) (adr : BitVec 3) : BitVec 32 :=
  if sameWord Config.cfgOffset adr then c.configWord else c.status

/-- The pins present a write of CONFIG's byte 0, the only byte with fields (R232). -/
def Pins.writesConfig (p : Pins) : Bool :=
  p.rbWe && sameWord Config.cfgOffset p.rbAdr && p.rbSel.getLsbD 0

/-- The divisor a CONFIG write carries (R232). -/
def Pins.newDiv (p : Pins) : BitVec 3 := (p.rbDatW >>> Config.cfgDivLsb).setWidth 3

/-- The enable bit a CONFIG write carries (R232). -/
def Pins.newEn (p : Pins) : Bool := p.rbDatW.getLsbD Config.cfgEnBit

/-- One byte lane of a write with select mask: "each select bit enables its byte; unselected bytes keep their value"
(R234). -/
def mergeLane (old new : BitVec 32) (sel : BitVec 4) (i : Nat) : BitVec 8 :=
  if sel.getLsbD i then (new >>> (8 * i)).setWidth 8 else (old >>> (8 * i)).setWidth 8

/-- STATUS after a write (R234). -/
def mergeStatus (old new : BitVec 32) (sel : BitVec 4) : BitVec 32 :=
  mergeLane old new sel 3 ++ mergeLane old new sel 2 ++ mergeLane old new sel 1 ++ mergeLane old new sel 0

/-- The registers of the next cycle: a write "takes effect on the next cycle", whatever the link is doing
(R232 to R235). -/
def ConfigRegs.next (c : ConfigRegs) (p : Pins) : ConfigRegs :=
  if p.writesConfig then { c with cfgDiv := p.newDiv, cfgEn := p.newEn }
  else if p.rbWe && !sameWord Config.cfgOffset p.rbAdr then
    { c with status := mergeStatus c.status p.rbDatW p.rbSel }
  else c

/-- The write of this cycle changes the divisor (70_reset_and_hazards.md R320). -/
def ConfigRegs.divisorChanges (c : ConfigRegs) (p : Pins) : Bool := p.writesConfig && p.newDiv != c.cfgDiv

/-- The write of this cycle clears the enable bit (70_reset_and_hazards.md R321). -/
def ConfigRegs.enableCleared (c : ConfigRegs) (p : Pins) : Bool := p.writesConfig && c.cfgEn && !p.newEn

end Sys2Proof.Machine
end

