-- ==== Sys2Proof/WellFormed.lean ====
section
/-! DEFINITION. Well-formedness of widths, of frames and of instructions (spec/00_scope.md R7). -/

namespace Sys2Proof

/-- "A and D are positive multiples of 8; `ND <= 8` (so `D <= 64`)" (R7). -/
def Widths.wf (w : Widths) : Bool :=
  decide (0 < w.a) && w.a % 8 == 0 && (decide (0 < w.d) && w.d % 8 == 0 && decide (w.d ≤ 64))

/-- A frame is well formed for given widths when each operand fits its field: the address in A bits, the
data in D bits, the select in ND bits. -/
def Frame.wf (w : Widths) : Frame → Bool
  | .read a => decide (a < 2 ^ w.a)
  | .write a s d => decide (a < 2 ^ w.a) && decide (s.toNat < 2 ^ w.nd) && decide (d.toNat < 2 ^ w.d)
  | .readAck d => decide (d.toNat < 2 ^ w.d)
  | .writeAck => true

/-- A command byte has no operand field (every row of spec/opcode_table.json has "fields": []), so there
is nothing to check. -/
def Instr.wf : Instr → Bool
  | .read => true
  | .write => true
  | .readAck => true
  | .writeAck => true

end Sys2Proof
end

