-- ==== Sys2Proof/Machine/Ops.lean ====
section
/-! DEFINITION. The responder's memory (spec/45_link_and_transactions.md R257, R265), the reset event
(spec/70_reset_and_hazards.md R310), the configurations a model refuses (spec/60_exceptions.md R285) and the pins of
the present cycle.

The hardware has no exception to take and none to return from (60 R280, R289, R290), so no such operation is here:
reset is the only event outside the transition rules. -/

namespace Sys2Proof.Machine

/-! ### Bytes of memory -/

/-- What an address that is not listed reads as (log 4). -/
def Memory.unlisted : Byte := 0

/-- Reads the byte at a key. -/
def Memory.readByte : Memory → Nat → Byte
  | [], _ => Memory.unlisted
  | (k, b) :: rest, key => if k = key then b else Memory.readByte rest key

/-- Puts a cell into a list of rising keys; the byte an unlisted address reads as is not listed. -/
def Memory.writeByte : Memory → Nat → Byte → Memory
  | [], key, b => if b = Memory.unlisted then [] else [(key, b)]
  | (k, c) :: rest, key, b =>
    if key < k then
      if b = Memory.unlisted then (k, c) :: rest else (key, b) :: (k, c) :: rest
    else if key = k then
      if b = Memory.unlisted then rest else (key, b) :: rest
    else (k, c) :: Memory.writeByte rest key b

/-- Every key of the list is above a bound. -/
def Memory.above (n : Nat) : Memory → Bool
  | [] => true
  | (k, _) :: rest => decide (n < k) && Memory.above n rest

/-- The canonical form: keys strictly rising, no cell that holds what an unlisted address reads as. -/
def Memory.wf : Memory → Bool
  | [] => true
  | (k, b) :: rest => (b != Memory.unlisted) && Memory.above k rest && Memory.wf rest

/-! ### Words of memory

"a map from `A`-bit addresses to `D`-bit words" (R265). The source does not say what an address counts (N12), so a
word's bytes get keys of their own: byte `i` of the word at `a` has key `8 * a + i` (log 5). -/

/-- The key of byte `i` of the word at address `a`. -/
def byteKey (a : Nat) (i : Nat) : Nat := 8 * a + i

/-- Byte `i` of a data word: `v[8i+7:8i]` (R14). -/
def laneByte (v : Data) (i : Nat) : Byte := (v >>> (8 * i)).setWidth 8

/-- `MemRead(a, n)`: the bytes `0 .. n-1` of the word at `a`, byte 0 the least significant. -/
def Memory.readWord (m : Memory) (a : Nat) : Nat → Data
  | 0 => 0
  | n + 1 => m.readWord a n ||| (m.readByte (byteKey a n)).setWidth 64 <<< (8 * n)

/-- `MemWrite(a, n, v, sel)`: "replaces byte `i` of the addressed word by `r_dat_w[8i+7:8i]` for each `i` with
`r_sel[i] = 1` and leaves the other bytes unchanged" (R257). -/
def Memory.writeWord (m : Memory) (a : Nat) (v : Data) (sel : Select) : Nat → Memory
  | 0 => m
  | n + 1 =>
    if sel.getLsbD n then (m.writeWord a v sel n).writeByte (byteKey a n) (laneByte v n)
    else m.writeWord a v sel n

/-! ### The pins of the present cycle -/

/-- The pins of this cycle: the head of the schedule, or the quiet pins when it has run out (log 2). -/
def State.pins (s : State) : Pins := s.inputs.headD Pins.quiet

/-! ### Reset -/

/-- The same machine with every register of R20 at its value of R43. -/
def State.resetRegs (s : State) : State :=
  { s with
    gen := StrobeRegs.reset
    host := HostRegs.reset
    periph := PeriphRegs.reset
    cfg := ConfigRegs.reset s.params }

/-- A cycle with `rst = 1`: "every register of R20 takes, at the end of the cycle, the value of R43, whatever else the
rules would have written" (R310). The memory is the responder's and keeps its contents; the schedule moves on. -/
def State.resetEvent (s : State) : State :=
  { s.resetRegs with
    inputs := s.inputs.tail
    draws := s.draws + 1 }

/-! ### Refused configurations -/

/-- "Refusals: parameter sets outside R7; `HOST_READ_SEL = 1`; more than one peripheral" (R285), and a responder that
is not stepped per peripheral cycle (70 R322). Where several hold, the first in this order is reported: DESIGN CHOICE, the
spec gives no order (log 9). -/
def refusalOf (p : Params) : Option Refusal :=
  if !(p.hostWidths.wf && p.periphWidths.wf) then some .widthsOutsideR7
  else if p.hostReadSel then some .hostReadSel
  else if 1 < p.peripherals then some .severalPeripherals
  else if p.responderPacing = .otherClock then some .responderPacing
  else none

end Sys2Proof.Machine
end

