-- ==== Sys2Proof/Machine/Strobe.lean ====
section
/-! DEFINITION. The Clock Strobe Generator (spec/40_strobe.md R120 to R130), both variants. -/

namespace Sys2Proof.Machine

/-- `tap_t = ctr_t[cfg_div_t]` (R120). -/
def StrobeRegs.tap (g : StrobeRegs) (c : ConfigRegs) : Bool := g.ctr.getLsbD c.cfgDiv.toNat

/-- The ungated pulse: TapEdge, the rising edge `tap_t and not prev_t` (R123); ModN, `cd_t = 0` (R127). -/
def StrobeRegs.raw (v : StrobeVariant) (g : StrobeRegs) (c : ConfigRegs) : Bool :=
  match v with
  | .tapEdge => g.tap c && !g.prev
  | .modN => g.cd == 0

/-- The gate (R124): `cfg_en` under GateStrobe, 1 under StoredOnly. -/
def gate (e : EnableSemantics) (c : ConfigRegs) : Bool :=
  match e with
  | .gateStrobe => c.cfgEn
  | .storedOnly => true

/-- `strobe_t = raw_t and gate_t` (R123, R127). -/
def StrobeRegs.strobe (p : Params) (g : StrobeRegs) (c : ConfigRegs) : Bool :=
  g.raw p.strobeVariant c && gate p.enableSemantics c

/-- `clk_out_t = tap_t and gate_t` (R125); under ModN "there is no `clk_out`" (R127). -/
def StrobeRegs.clkOut (p : Params) (g : StrobeRegs) (c : ConfigRegs) : Option Bool :=
  match p.strobeVariant with
  | .tapEdge => some (g.tap c && gate p.enableSemantics c)
  | .modN => none

/-- `N - 1 = 2^(cfg_div+1) - 1`, the reload value of ModN; 255 at most (R127). -/
def modNReload (c : ConfigRegs) : BitVec 8 := BitVec.ofNat 8 (2 ^ (c.cfgDiv.toNat + 1) - 1)

/-- The registers of the next cycle. TapEdge: `ctr` counts modulo 2^8 and `prev` takes the tap, unconditionally
(R121, R122). ModN: the countdown reloads at 0 (R127). Neither the enable bit nor a divisor write enters. -/
def StrobeRegs.next (v : StrobeVariant) (g : StrobeRegs) (c : ConfigRegs) : StrobeRegs :=
  match v with
  | .tapEdge => { g with ctr := g.ctr + 1, prev := g.tap c }
  | .modN => { g with cd := if g.cd = 0 then modNReload c else g.cd - 1 }

/-- Registers whose present cycle is a tick for the given divisor: the selected counter bit has just risen, the
countdown is 0. -/
def StrobeRegs.atTick (g : StrobeRegs) (c : ConfigRegs) : StrobeRegs :=
  { g with ctr := 1#8 <<< c.cfgDiv.toNat, prev := false, cd := 0 }

end Sys2Proof.Machine
end

