-- ==== Sys2Proof/Machine/Flags.lean ====
section
/-! DEFINITION. The derived signals, this hardware's flags (spec/10_state.md R34 to R40): "None of the following is
state; each is a combinational function of state and inputs of the same cycle". What the output pins carry while `rst = 1`
is in Outputs.lean (spec/70_reset_and_hazards.md R312). -/

namespace Sys2Proof.Machine

/-! ### Strobe generator -/

/-- `strobe` (R34). -/
def State.strobe (s : State) : Bool := s.gen.strobe s.params s.cfg

/-- `clk_out` (R34, 40_strobe.md R125). -/
def State.clkOut (s : State) : Option Bool := s.gen.clkOut s.params s.cfg

/-- `p_adv = strobe` (45_link_and_transactions.md R251), where a peripheral is attached. -/
def State.pAdv (s : State) : Bool := s.strobe && s.params.attached

/-! ### Host-side wide bus

These and the enables below are the signals of the present registers; the pins are `State.outPins` (Outputs.lean). -/

/-- `wb_ack = (hstate = WISHBONE_ACK)` (R35). -/
def HostRegs.wbAck (h : HostRegs) : Bool := h.hstate == .wishboneAck

/-- `wb_stall = (hstate not in {IDLE, WISHBONE_ACK}) or (hstate = IDLE and wb_cyc and wb_stb)` (R36). -/
def HostRegs.wbStall (h : HostRegs) (p : Pins) : Bool :=
  (h.hstate != .idle && h.hstate != .wishboneAck) || (h.hstate == .idle && p.pending)

/-- `wb_ack` of the composed system. -/
def State.wbAck (s : State) : Bool := s.host.wbAck

/-- `wb_stall` of the composed system. -/
def State.wbStall (s : State) : Bool := s.host.wbStall s.pins

/-- `wb_dat_r = hdata`, continuously (R40). -/
def State.wbDatR (s : State) : Data := s.host.hdata

/-! ### Output enables -/

/-- `h_oe`: the host drives in the states in which it sends and in IDLE (R37). -/
def HostRegs.oe (h : HostRegs) : Bool :=
  match h.hstate with
  | .idle | .writeCmd | .writeAddr | .writeSel | .writeData | .readCmd | .readAddr => true
  | .writeAck | .readAck | .readData | .wishboneAck => false

/-- `p_oe`: "asserted precisely during the ack-emission and data-return states, and at no other time" (R37, R203). -/
def PeriphRegs.oe (r : PeriphRegs) : Bool :=
  match r.pstate with
  | .writeAck | .readAck | .readData => true
  | .idle | .writeAddr | .writeSel | .writeData | .writeWishbone | .readAddr | .readWishbone => false

/-- `h_oe` of the composed system. -/
def State.hOe (s : State) : Bool := s.host.oe

/-- `p_oe` of the composed system; a peripheral that is not attached drives nothing. -/
def State.pOe (s : State) : Bool := s.periph.oe && s.params.attached

/-! ### The narrow bus -/

/-- Who drives the narrow bus in a cycle (45_link_and_transactions.md R252). -/
inductive Driver
  | host
  | periph
  | nobody
  | both
  deriving DecidableEq, Repr

/-- The driver of this cycle (R252). -/
def State.driver (s : State) : Driver :=
  match s.hOe, s.pOe with
  | true, false => .host
  | false, true => .periph
  | false, false => .nobody
  | true, true => .both

/-- `BUS_FLOAT`: the platform's byte, or this cycle's free draw (R11). -/
def State.floatByte (s : State) : Byte := s.params.busFloat.getD (Config.floatByte s.draws)

/-- `bus_t = h_in_t = p_in_t` (R252). When both ends drive there is no byte: `State.stop?` faults in every such
cycle without reset, and with reset the bus is that of the reset state (`State.shown`), so the last arm is the value of no
cycle that goes on. -/
def State.bus (s : State) : Byte :=
  match s.driver with
  | .host => s.host.hout
  | .periph => s.periph.pout
  | .nobody => s.floatByte
  | .both => s.floatByte

/-! ### Parity (41_codec.md R143, R144) -/

/-- `parity(b)`: the exclusive or of the eight bits and of `PARITY_INVERT` (R143). -/
def parity (invert : Bool) (b : Byte) : Bool :=
  b.getLsbD 7 ^^ b.getLsbD 6 ^^ b.getLsbD 5 ^^ b.getLsbD 4 ^^ b.getLsbD 3 ^^ b.getLsbD 2 ^^ b.getLsbD 1 ^^
    b.getLsbD 0 ^^ invert

/-- `h_par_out = parity(hout)`, in every cycle (R38). -/
def State.hParOut (s : State) : Bool := parity s.params.parityInvert s.host.hout

/-- `p_par_out = parity(pout)`, in every cycle (R38). -/
def State.pParOut (s : State) : Bool := parity s.params.parityInvert s.periph.pout

/-- The parity line, "resolved the same way" as the bus (R252). It feeds `h_par_in` and `p_par_in`, which nothing
reads (R144). An undriven line has no stated level (N11; log 7). -/
def State.parityLine (s : State) : Bool :=
  match s.driver with
  | .host => s.hParOut
  | .periph => s.pParOut
  | .nobody => Config.floatParity s.draws
  | .both => Config.floatParity s.draws

/-! ### Peripheral-side wide bus (R39) -/

/-- `r_cyc` of the peripheral's registers. -/
def PeriphRegs.rCyc (r : PeriphRegs) : Bool := r.pstate == .writeWishbone || r.pstate == .readWishbone

/-- `r_we` of the peripheral's registers. -/
def PeriphRegs.rWe (r : PeriphRegs) : Bool := r.pstate == .writeWishbone

/-- `r_sel` of the peripheral's registers: `psel` on a write, all ones otherwise. -/
def PeriphRegs.rSel (w : Widths) (r : PeriphRegs) : Select := if r.rWe then r.psel else allSelected w.nd

/-- `r_cyc`. -/
def State.rCyc (s : State) : Bool := s.periph.rCyc

/-- `r_stb`. -/
def State.rStb (s : State) : Bool := s.rCyc

/-- `r_we`. -/
def State.rWe (s : State) : Bool := s.periph.rWe

/-- `r_adr`. -/
def State.rAdr (s : State) : Nat := s.periph.paddr

/-- `r_dat_w`. -/
def State.rDatW (s : State) : Data := s.periph.pdata

/-- `r_sel`. -/
def State.rSel (s : State) : Select := s.periph.rSel s.params.periphWidths

/-- `r_dat_r`: what the responder presents, should it be read in this cycle (R257 (b); log 14). -/
def State.rDatR (s : State) : Data :=
  match s.pins.rDatR with
  | some q => q
  | none => s.mem.readWord s.rAdr s.params.periphWidths.nd

/-! ### Register bus -/

/-- `rb_dat_r` (44_config_regs.md R231). -/
def State.rbDatR (s : State) : BitVec 32 := s.cfg.read s.pins.rbAdr

/-! ### Who listens for a command -/

/-- The peripheral takes a request byte in a peripheral cycle in p.IDLE (43_peripheral.md R193). -/
def State.periphListens (s : State) : Bool := s.pAdv && s.periph.pstate == .idle

/-- The host takes READ_ACK at a tick in h.READ_ACK (42_host.md R162). -/
def State.hostAwaitsRead (s : State) : Bool := s.strobe && s.host.hstate == .readAck

/-- The host takes WRITE_ACK at a tick in h.WRITE_ACK (42_host.md R160). -/
def State.hostAwaitsWrite (s : State) : Bool := s.strobe && s.host.hstate == .writeAck

end Sys2Proof.Machine
end

