-- ==== Sys2Proof/Decode.lean ====
section
/-! DEFINITION. The command codec (spec/41_codec.md R140 to R142, R145) and the frame formats
(spec/30_encoding.md R91 to R102), decoder first, encoder after it. -/

namespace Sys2Proof

/-! ### Decoding -/

/-- Why bytes are not an instruction or a frame. A rejection is no outcome of the machine: "an unrecognised
byte is a no-op" (R145). -/
inductive DecodeError
  /-- There is no byte to read. -/
  | noByte
  /-- The byte is none of the four command bytes (R104, R105). -/
  | notACommand (b : Byte)
  /-- Fewer bytes follow the command byte than R99 says. -/
  | frameTooShort (i : Instr)
  deriving DecidableEq, Repr

/-- The command a byte stands for: the whole byte is compared with each value of R91 (mask `0xFF`). -/
def decodeByte (b : Byte) : Option Instr :=
  if b = 0x02 then some .read
  else if b = 0x03 then some .write
  else if b = 0x82 then some .readAck
  else if b = 0x83 then some .writeAck
  else none

/-- Reads one command byte off a byte sequence and leaves the rest. -/
def decode : List Byte → Except DecodeError (Instr × List Byte)
  | [] => .error .noByte
  | b :: rest =>
    match decodeByte b with
    | some i => .ok (i, rest)
    | none => .error (.notACommand b)

/-- The number of bytes that follow a command byte: "after `0x03` the peripheral takes exactly `NA + 1 + ND`
more bytes, after `0x02` exactly `NA` more bytes; after `0x82` the host takes exactly `ND` more bytes, after
`0x83` none" (R99). -/
def Instr.payloadLength (w : Widths) : Instr → Nat
  | .read => w.na
  | .write => w.na + 1 + w.nd
  | .readAck => w.nd
  | .writeAck => 0

/-- The value of a byte sequence, least significant byte first (20_memory.md R63). -/
def natOfBytes : List Byte → Nat
  | [] => 0
  | b :: rest => b.toNat + 256 * natOfBytes rest

/-- The `ND` low bits of a byte: "The peripheral keeps `psel <- byte[ND-1:0]` and ignores the upper
`8 - ND` bits" (R102). -/
def selectBits (w : Widths) (b : Byte) : Select := (b.setWidth w.nd).setWidth 8

/-- The frame a command byte and exactly its payload spell (R94 to R97). -/
def frameOf (w : Widths) (i : Instr) (payload : List Byte) : Frame :=
  match i with
  | .read => .read (natOfBytes payload)
  | .write =>
    .write (natOfBytes (payload.take w.na))
      (selectBits w (payload.getD w.na 0))
      (BitVec.ofNat 64 (natOfBytes (payload.drop (w.na + 1))))
  | .readAck => .readAck (BitVec.ofNat 64 (natOfBytes payload))
  | .writeAck => .writeAck

/-- Reads one frame off a byte sequence and leaves the rest. -/
def decodeFrame (w : Widths) (bytes : List Byte) : Except DecodeError (Frame × List Byte) :=
  match decode bytes with
  | .error e => .error e
  | .ok (i, rest) =>
    if i.payloadLength w ≤ rest.length then
      .ok (frameOf w i (rest.take (i.payloadLength w)), rest.drop (i.payloadLength w))
    else .error (.frameTooShort i)

/-- The host's interface: the instruction the decoder reads from an instruction whose bits are `w`. A command
is one byte (format CMD8), so a row has 8 bits. -/
def decodeTableWord (nbits w : Nat) : Option Instr :=
  match decode [BitVec.ofNat 8 (w % 2 ^ nbits)] with
  | .ok (i, _) => some i
  | .error _ => none

/-! ### Encoding -/

/-- "Command byte values are fixed: `READ=0x02, WRITE=0x03, READ_ACK=0x82, WRITE_ACK=0x83`" (R91). -/
def Instr.byte : Instr → Byte
  | .read => 0x02
  | .write => 0x03
  | .readAck => 0x82
  | .writeAck => 0x83

/-- The bytes of an instruction: its command byte. -/
def encode (i : Instr) : List Byte := [i.byte]

/-- `n` bytes of a value, least significant byte first (20_memory.md R63). -/
def bytesOfNat : Nat → Nat → List Byte
  | 0, _ => []
  | n + 1, v => BitVec.ofNat 8 v :: bytesOfNat n (v / 256)

/-- The bytes of a frame in the order of the wire (R94 to R97). -/
def encodeFrame (w : Widths) : Frame → List Byte
  | .read a => Instr.byte .read :: bytesOfNat w.na a
  | .write a s d => Instr.byte .write :: (bytesOfNat w.na a ++ s :: bytesOfNat w.nd d.toNat)
  | .readAck d => Instr.byte .readAck :: bytesOfNat w.nd d.toNat
  | .writeAck => [Instr.byte .writeAck]

/-! ### The codec functions by their own names -/

/-- `encode(direction)` (R140): the byte the host emits at acceptance. -/
def encodeRequest : Direction → Byte
  | .read => Instr.byte .read
  | .write => Instr.byte .write

/-- `encode_ack(direction)` (R141): the byte the peripheral emits when the responder acknowledges. -/
def encodeAck : Direction → Byte
  | .read => Instr.byte .readAck
  | .write => Instr.byte .writeAck

/-- `is_ack(byte, direction)`: "true iff `byte == encode_ack(direction)`" (R142). -/
def isAck (b : Byte) (dir : Direction) : Bool := b == encodeAck dir

end Sys2Proof
end

