-- ==== Sys2Proof/Machine/HostFsm.lean ====
section
/-! DEFINITION. The Host Controller's transition function (spec/42_host.md R150 to R169): one definition per state. -/

namespace Sys2Proof.Machine

/-! ### What a state does at a tick -/

/-- IDLE, a write is pending: capture address, data and select, emit WRITE (R153). -/
def HostRegs.acceptWrite (w : Widths) (p : Pins) (h : HostRegs) : HostRegs :=
  { h with
    haddr := p.addr w
    hdata := p.data w
    hsel := p.sel w
    hout := encodeRequest .write
    hstate := .writeCmd }

/-- IDLE, a read is pending: capture the address, emit READ; "On a read, `wb_dat_w` and `wb_sel` are not captured"
(R153). -/
def HostRegs.acceptRead (w : Widths) (p : Pins) (h : HostRegs) : HostRegs :=
  { h with
    haddr := p.addr w
    hout := encodeRequest .read
    hstate := .readCmd }

/-- Emit the low address byte and shift the address (R154, R156). -/
def HostRegs.emitAddr (h : HostRegs) : HostRegs :=
  { h with hout := addrByte h.haddr, haddr := addrShift h.haddr }

/-- Emit the low data byte and shift the data (R158, R159). -/
def HostRegs.emitData (h : HostRegs) : HostRegs :=
  { h with hout := dataByte h.hdata, hdata := dataShift h.hdata }

/-- WRITE_CMD and READ_CMD: the first address byte; the countdown starts at `NA - 1` (R154, R155). -/
def HostRegs.startAddr (w : Widths) (dest : HState) (h : HostRegs) : HostRegs :=
  { h.emitAddr with hcount := w.na - 1, hstate := dest }

/-- WRITE_ADDR: the next address byte, or the select byte and on to WRITE_SEL (R156). -/
def HostRegs.stepWriteAddr (h : HostRegs) : HostRegs :=
  if h.hcount ≠ 0 then { h.emitAddr with hcount := h.hcount - 1 }
  else { h with hout := h.hsel, hstate := .writeSel }

/-- READ_ADDR: the next address byte, or zero and on to READ_ACK (R157). -/
def HostRegs.stepReadAddr (h : HostRegs) : HostRegs :=
  if h.hcount ≠ 0 then { h.emitAddr with hcount := h.hcount - 1 }
  else { h with hout := 0x00, hstate := .readAck }

/-- WRITE_SEL: the first data byte; the countdown starts at `ND - 1` (R158). -/
def HostRegs.stepWriteSel (w : Widths) (h : HostRegs) : HostRegs :=
  { h.emitData with hcount := w.nd - 1, hstate := .writeData }

/-- WRITE_DATA: the next data byte, or zero and on to WRITE_ACK (R159). -/
def HostRegs.stepWriteData (h : HostRegs) : HostRegs :=
  if h.hcount ≠ 0 then { h.emitData with hcount := h.hcount - 1 }
  else { h with hout := 0x00, hstate := .writeAck }

/-- WRITE_ACK, the byte is `0x83`: the write is complete (R160). -/
def HostRegs.takeWriteAck (h : HostRegs) : HostRegs := { h with hstate := .wishboneAck }

/-- READ_ACK, the byte is `0x82`: clear the data register, start the countdown, on to READ_DATA (R162). -/
def HostRegs.takeReadAck (w : Widths) (h : HostRegs) : HostRegs :=
  { h with hdata := 0, hcount := w.nd - 1, hstate := .readData }

/-- READ_DATA: "shifts the inbound byte into the most-significant position of the data register"; the byte is taken at
`hcount = 0` too (R163). -/
def HostRegs.stepReadData (w : Widths) (b : Byte) (h : HostRegs) : HostRegs :=
  if h.hcount = 0 then { h with hdata := dataInsert w.d b h.hdata, hstate := .wishboneAck }
  else { h with hdata := dataInsert w.d b h.hdata, hcount := h.hcount - 1 }

/-! ### The two ungated actions (R151) -/

/-- IDLE when nothing is accepted: "drives the output byte to zero", tick or not (R153). -/
def HostRegs.rest (h : HostRegs) : HostRegs := { h with hout := 0x00 }

/-- WISHBONE_ACK: back to IDLE after one cycle, "not gated by the strobe" (R165). -/
def HostRegs.finish (h : HostRegs) : HostRegs := { h with hstate := .idle }

/-! ### The transition function -/

/-- IDLE (R153). -/
def HostRegs.stepIdle (w : Widths) (tick : Bool) (p : Pins) (h : HostRegs) : HostRegs :=
  if tick && p.pendingWrite then h.acceptWrite w p
  else if tick && p.pendingRead then h.acceptRead w p
  else h.rest

/-- The host's registers after a tick in a state other than IDLE, `hIn` being the byte on the bus (R152). -/
def HostRegs.atTick (w : Widths) (hIn : Byte) (h : HostRegs) : HostRegs :=
  match h.hstate with
  | .idle => h
  | .writeCmd => h.startAddr w .writeAddr
  | .writeAddr => h.stepWriteAddr
  | .writeSel => h.stepWriteSel w
  | .writeData => h.stepWriteData
  | .writeAck => if isAck hIn .write then h.takeWriteAck else h
  | .readCmd => h.startAddr w .readAddr
  | .readAddr => h.stepReadAddr
  | .readAck => if isAck hIn .read then h.takeReadAck w else h
  | .readData => h.stepReadData w hIn
  | .wishboneAck => h

/-- One cycle of the host alone, with `strobe`, the wide-bus pins and `h_in` as inputs (R150, R151, 45 R255). -/
def HostRegs.next (w : Widths) (tick : Bool) (p : Pins) (hIn : Byte) (h : HostRegs) : HostRegs :=
  match h.hstate with
  | .idle => h.stepIdle w tick p
  | .wishboneAck => h.finish
  | _ => if tick then h.atTick w hIn else h

end Sys2Proof.Machine
end

