-- ==== Sys2Proof/Machine/PeriphFsm.lean ====
section
/-! DEFINITION. The Peripheral Controller's transition function (spec/43_peripheral.md R190 to R206): one definition
per state. -/

namespace Sys2Proof.Machine

/-- IDLE, a command was sampled: reset the address register and the countdown, on to the ADDR state (R193). -/
def PeriphRegs.openFrame (w : Widths) (dest : PState) (r : PeriphRegs) : PeriphRegs :=
  { r with pout := 0x00, paddr := 0, pcount := w.na - 1, pstate := dest }

/-- IDLE, any other byte: it is ignored (R193, 30_encoding.md R104). -/
def PeriphRegs.rest (r : PeriphRegs) : PeriphRegs := { r with pout := 0x00 }

/-- IDLE: the byte is compared with the two request bytes (R193). -/
def PeriphRegs.stepIdle (w : Widths) (b : Byte) (r : PeriphRegs) : PeriphRegs :=
  if b = encodeRequest .write then r.openFrame w .writeAddr
  else if b = encodeRequest .read then r.openFrame w .readAddr
  else r.rest

/-- WRITE_ADDR and READ_ADDR: take an address byte in every peripheral cycle, the one with `pcount = 0` included
(R194, R195). -/
def PeriphRegs.stepAddr (w : Widths) (dest : PState) (b : Byte) (r : PeriphRegs) : PeriphRegs :=
  if r.pcount = 0 then { r with paddr := addrInsert w.a b r.paddr, pstate := dest }
  else { r with paddr := addrInsert w.a b r.paddr, pcount := r.pcount - 1 }

/-- WRITE_SEL: take the select byte, start the data countdown (R196). -/
def PeriphRegs.stepWriteSel (w : Widths) (b : Byte) (r : PeriphRegs) : PeriphRegs :=
  { r with psel := lowSelect w.nd b, pcount := w.nd - 1, pstate := .writeData }

/-- WRITE_DATA: take a data byte in every peripheral cycle (R197). -/
def PeriphRegs.stepWriteData (w : Widths) (b : Byte) (r : PeriphRegs) : PeriphRegs :=
  if r.pcount = 0 then { r with pdata := dataInsert w.d b r.pdata, pstate := .writeWishbone }
  else { r with pdata := dataInsert w.d b r.pdata, pcount := r.pcount - 1 }

/-- WRITE_WISHBONE, the responder acknowledged: emit WRITE_ACK (R198). -/
def PeriphRegs.writeAcked (r : PeriphRegs) : PeriphRegs :=
  { r with pout := encodeAck .write, pstate := .writeAck }

/-- WRITE_ACK and the end of READ_DATA: back to IDLE (R199, R202). -/
def PeriphRegs.close (r : PeriphRegs) : PeriphRegs := { r with pout := 0x00, pstate := .idle }

/-- READ_WISHBONE, the responder acknowledged with `q`: keep the data, emit READ_ACK (R200). -/
def PeriphRegs.readAcked (w : Widths) (q : Data) (r : PeriphRegs) : PeriphRegs :=
  { r with pdata := lowData w.d q, pout := encodeAck .read, pstate := .readAck }

/-- Emit the low data byte and shift the data (R201, R202). -/
def PeriphRegs.emitData (r : PeriphRegs) : PeriphRegs :=
  { r with pout := dataByte r.pdata, pdata := dataShift r.pdata }

/-- READ_ACK: the first data byte; the countdown starts at `ND - 1` (R201). -/
def PeriphRegs.startData (w : Widths) (r : PeriphRegs) : PeriphRegs :=
  { r.emitData with pcount := w.nd - 1, pstate := .readData }

/-- READ_DATA: the next data byte, or back to IDLE (R202). -/
def PeriphRegs.stepReadData (r : PeriphRegs) : PeriphRegs :=
  if r.pcount ≠ 0 then { r.emitData with pcount := r.pcount - 1 } else r.close

/-- One peripheral cycle, a cycle with `p_adv = 1`, with `p_in`, `r_ack` and `r_dat_r` as inputs (R191, R192). -/
def PeriphRegs.next (w : Widths) (b : Byte) (ack : Bool) (q : Data) (r : PeriphRegs) : PeriphRegs :=
  match r.pstate with
  | .idle => r.stepIdle w b
  | .writeAddr => r.stepAddr w .writeSel b
  | .writeSel => r.stepWriteSel w b
  | .writeData => r.stepWriteData w b
  | .writeWishbone => if ack then r.writeAcked else r
  | .writeAck => r.close
  | .readAddr => r.stepAddr w .readWishbone b
  | .readWishbone => if ack then r.readAcked w q else r
  | .readAck => r.startData w
  | .readData => r.stepReadData

/-- One system-clock cycle of the peripheral, with `p_adv`, `p_in`, `r_ack` and `r_dat_r` as inputs (R190): "all
peripheral registers update at the clock edges that end cycles with `p_adv = 1` and at no other time". -/
def PeriphRegs.advance (w : Widths) (pAdv : Bool) (b : Byte) (ack : Bool) (q : Data) (r : PeriphRegs) : PeriphRegs :=
  if pAdv then r.next w b ack q else r

end Sys2Proof.Machine
end

