-- ==== Sys2Proof/Machine/Cycle.lean ====
section
/-! DEFINITION. One cycle of the composed system (spec/45_link_and_transactions.md R250 to R252, R257): the clock
edge, the conditions under which the model stops, and the cycle in which no command is recognised. -/

namespace Sys2Proof.Machine

/-! ### What stops the model in a cycle -/

/-- Both controllers are idle and no request is pending: the only situation in which CONFIG may be changed
(70_reset_and_hazards.md R320, R321). -/
def State.atRest (s : State) : Bool :=
  s.host.hstate == .idle && s.periph.pstate == .idle && !s.pins.pending

/-- The model-level fault of this cycle (60_exceptions.md R285). Where several hold, the first is reported (log 9). -/
def State.stop? (s : State) : Option Fault :=
  if s.driver = .both then some .busContention
  else if s.cfg.divisorChanges s.pins && !s.atRest then some .unsafeDivisorChange
  else if s.cfg.enableCleared s.pins && !s.atRest then some .unsafeEnableChange
  else none

/-! ### The clock edge -/

/-- The responder's memory after this cycle: a write is performed "exactly once, in the cycle in which it
acknowledges", and the responder is stepped once per peripheral cycle (R257). -/
def State.memNext (s : State) : Memory :=
  if s.pAdv && s.rCyc && s.rStb && s.rWe && s.pins.rAck then
    s.mem.writeWord s.rAdr s.rDatW s.rSel s.params.periphWidths.nd
  else s.mem

/-- The host's registers after this cycle when the bus carries `b`. -/
def State.hostNext (s : State) (b : Byte) : HostRegs :=
  s.host.next s.params.hostWidths s.strobe s.pins b

/-- The peripheral's registers after this cycle when the bus carries `b`: "In a cycle with `p_adv = 0` nothing in the
peripheral changes" (43_peripheral.md R191). -/
def State.periphNext (s : State) (b : Byte) : PeriphRegs :=
  s.periph.advance s.params.periphWidths s.pAdv b s.pins.rAck s.rDatR

/-- The clock edge that ends the cycle, the two controllers' new registers being given: the strobe generator and the
register file move by their own rules, the responder answers, the schedule and the draws move on. All registers change
together and from the old values (00_scope.md R13, R15). -/
def State.edge (s : State) (h : HostRegs) (r : PeriphRegs) : State :=
  { s with
    gen := s.gen.next s.params.strobeVariant s.cfg
    host := h
    periph := r
    cfg := s.cfg.next s.pins
    mem := s.memNext
    inputs := s.inputs.tail
    draws := s.draws + 1 }

/-- The clock edge of a cycle in which both ends sample the byte `b`. -/
def State.edgeWith (s : State) (b : Byte) : State := s.edge (s.hostNext b) (s.periphNext b)

/-- A cycle whose ordinary outcome is `t`: a refused configuration is not run at all; `rst` has priority over
everything else (70_reset_and_hazards.md R310); a model-level fault stops. -/
def State.cycle (s : State) (t : State) : Host.Outcome State Fault Refusal :=
  match refusalOf s.params with
  | some r => .refused r
  | none =>
    if s.pins.rst then .next s.resetEvent
    else
      match s.stop? with
      | some f => .fault f
      | none => .next t

/-! ### Recognising a command -/

/-- Whether a controller recognises the command `i` in this cycle; anywhere else the same byte is payload or is
ignored (30_encoding.md R104 to R106). -/
def State.listens (s : State) : Instr → Bool
  | .read => s.periphListens
  | .write => s.periphListens
  | .readAck => s.hostAwaitsRead
  | .writeAck => s.hostAwaitsWrite

/-- The command this cycle executes: the bus carries its byte and a controller listens for it. -/
def State.command? (s : State) : Option Instr :=
  match decodeByte s.bus with
  | some i => if s.listens i then some i else none
  | none => none

/-! ### Placing a command byte where the machine takes its next one -/

/-- The state `s` with the command byte `b` on the bus of a tick cycle, driven by the end that sends it, and the other
end listening for it; the cycle's pins hold no reset and no register-bus write. -/
def State.placeCommand (s : State) (b : Byte) : State :=
  let cfg := { s.cfg with cfgEn := true }
  let pins := { s.pins with rst := false, rbWe := false }
  let t := { s with gen := s.gen.atTick cfg, cfg := cfg, inputs := pins :: s.inputs.tail }
  match decodeByte b with
  | some .read =>
    { t with host := { s.host with hstate := .readCmd, hout := b }, periph := { s.periph with pstate := .idle } }
  | some .write =>
    { t with host := { s.host with hstate := .writeCmd, hout := b }, periph := { s.periph with pstate := .idle } }
  | some .readAck =>
    { t with host := { s.host with hstate := .readAck }, periph := { s.periph with pstate := .readAck, pout := b } }
  | some .writeAck =>
    { t with host := { s.host with hstate := .writeAck }, periph := { s.periph with pstate := .writeAck, pout := b } }
  | none =>
    { t with host := { s.host with hstate := .readCmd, hout := b }, periph := { s.periph with pstate := .idle } }

end Sys2Proof.Machine
end

