-- ==== Sys2Proof/Machine/Acks.lean ====
section
/-! DEFINITION. The two acknowledgment commands, executed by the host (spec/42_host.md R160, R162;
spec/45_link_and_transactions.md R262, R263). "Received in any other host state it has no effect (as payload in
`h.READ_DATA` it is data)". -/

namespace Sys2Proof.Machine

/-- READ_ACK (R263, R162): the waiting host "clears `hdata`, loads the countdown and starts the capture". -/
def execReadAck (s : State) : Host.Outcome State Fault Refusal :=
  if s.hostAwaitsRead then
    s.cycle (s.edge (s.host.takeReadAck s.params.hostWidths) (s.periphNext (Instr.byte .readAck)))
  else s.cycle (s.edgeWith (Instr.byte .readAck))

/-- WRITE_ACK (R262, R160): the waiting host completes the write. -/
def execWriteAck (s : State) : Host.Outcome State Fault Refusal :=
  if s.hostAwaitsWrite then
    s.cycle (s.edge s.host.takeWriteAck (s.periphNext (Instr.byte .writeAck)))
  else s.cycle (s.edgeWith (Instr.byte .writeAck))

end Sys2Proof.Machine
end

