-- ==== Sys2Proof/Machine/Requests.lean ====
section
/-! DEFINITION. The two request commands, executed by the peripheral (spec/43_peripheral.md R193;
spec/45_link_and_transactions.md R260, R261).

An instruction's meaning is the cycle in which its byte is on the bus. Where the peripheral listens, the byte opens a
frame; everywhere else it is payload or is ignored, by the states' own rules (30_encoding.md R104, R106). The rest of
the transaction is the work of the following cycles (log 1). -/

namespace Sys2Proof.Machine

/-- READ (R261, R193): the listening peripheral clears its address register, starts the countdown at `NA - 1` and goes
to READ_ADDR. -/
def execRead (s : State) : Host.Outcome State Fault Refusal :=
  if s.periphListens then
    s.cycle (s.edge (s.hostNext (Instr.byte .read)) (s.periph.openFrame s.params.periphWidths .readAddr))
  else s.cycle (s.edgeWith (Instr.byte .read))

/-- WRITE (R260, R193): the listening peripheral clears its address register, starts the countdown at `NA - 1` and goes
to WRITE_ADDR. -/
def execWrite (s : State) : Host.Outcome State Fault Refusal :=
  if s.periphListens then
    s.cycle (s.edge (s.hostNext (Instr.byte .write)) (s.periph.openFrame s.params.periphWidths .writeAddr))
  else s.cycle (s.edgeWith (Instr.byte .write))

end Sys2Proof.Machine
end

