-- ==== Sys2Proof/Machine/Dispatch.lean ====
section
/-! DEFINITION. One arm per command byte. -/

namespace Sys2Proof.Machine

def exec (i : Instr) (s : State) : Host.Outcome State Fault Refusal :=
  match i with
  | .read => Sys2Proof.Machine.execRead s
  | .write => Sys2Proof.Machine.execWrite s
  | .readAck => Sys2Proof.Machine.execReadAck s
  | .writeAck => Sys2Proof.Machine.execWriteAck s

end Sys2Proof.Machine
end

