-- ==== Sys2Proof/Machine/Step.lean ====
section
/-! DEFINITION. One cycle of the system clock (spec/00_scope.md R13, spec/42_host.md R150). -/

namespace Sys2Proof.Machine

/-- One cycle. If the bus carries a command byte that a controller listens for, the command is executed; otherwise both
ends sample the bus by their states' own rules. -/
def step (s : State) : Host.Outcome State Fault Refusal :=
  match s.command? with
  | some i => exec i s
  | none => s.cycle (s.edgeWith s.bus)

/-- The host's interface: `s` with the instruction whose bits are `w` placed where `step` takes its next one. An
instruction is one byte; bits above it do not exist. -/
def State.withFetchWord (s : State) (nbits w : Nat) : State :=
  s.placeCommand (BitVec.ofNat 8 (w % 2 ^ nbits))

end Sys2Proof.Machine
end

