-- ==== Sys2Proof/Machine/OneSide.lean ====
section
/-! DEFINITION. Each side of the core alone (spec/45_link_and_transactions.md R255): "A model of the host side alone takes
`h_in` as a free input of every cycle; a model of the peripheral side alone takes `p_in` and `p_adv` as free inputs."
The composed system is these two with `h_in = p_in = bus` and `p_adv = strobe` (R251, R252; Laws/OneSide.lean). -/

namespace Sys2Proof.Machine

/-! ### The host side: strobe generator, register file and Host Controller (R250) -/

/-- The registers of the host side; the configuration record's host entries are those it reads. -/
structure HostSide where
  params : Params
  gen : StrobeRegs
  host : HostRegs
  cfg : ConfigRegs
  deriving DecidableEq, Repr

/-- The host side right after reset (10_state.md R43). -/
def HostSide.reset (p : Params) : HostSide where
  params := p
  gen := StrobeRegs.reset
  host := HostRegs.reset
  cfg := ConfigRegs.reset p

/-- `strobe` of the host side. -/
def HostSide.strobe (h : HostSide) : Bool := h.gen.strobe h.params h.cfg

/-- The host is idle and no request is pending: what 70_reset_and_hazards.md R320 and R321 ask of this side. -/
def HostSide.atRest (h : HostSide) (p : Pins) : Bool := h.host.hstate == .idle && !p.pending

/-- The hazard violations this side alone can show (70_reset_and_hazards.md R320, R321); contention takes two (log 20). -/
def HostSide.stop? (h : HostSide) (p : Pins) : Option Fault :=
  if h.cfg.divisorChanges p && !h.atRest p then some .unsafeDivisorChange
  else if h.cfg.enableCleared p && !h.atRest p then some .unsafeEnableChange
  else none

/-- The clock edge of the host side, `h_in` being free. -/
def HostSide.edge (h : HostSide) (p : Pins) (hIn : Byte) : HostSide :=
  { h with
    gen := h.gen.next h.params.strobeVariant h.cfg
    host := h.host.next h.params.hostWidths h.strobe p hIn
    cfg := h.cfg.next p }

/-- One cycle of the host side alone, with the pins of the wide bus and the register bus, `rst` and `h_in` as free
inputs. -/
def HostSide.step (h : HostSide) (p : Pins) (hIn : Byte) : Host.Outcome HostSide Fault Refusal :=
  match refusalOf h.params with
  | some r => .refused r
  | none =>
    if p.rst then .next (HostSide.reset h.params)
    else
      match h.stop? p with
      | some f => .fault f
      | none => .next (h.edge p hIn)

/-! ### The peripheral side: the Peripheral Controller -/

/-- One cycle of the peripheral side alone, with `rst`, `p_adv`, `p_in`, `r_ack` and `r_dat_r` as free inputs. It has no
strobe generator and no register of its own beside the controller's (43_peripheral.md R190), and it raises nothing (R206). -/
def PeriphRegs.step (w : Widths) (rst pAdv : Bool) (pIn : Byte) (ack : Bool) (q : Data) (r : PeriphRegs) : PeriphRegs :=
  if rst then PeriphRegs.reset else r.advance w pAdv pIn ack q

/-! ### The host side inside the composed system -/

/-- The host side of a composed state. -/
def State.hostSide (s : State) : HostSide where
  params := s.params
  gen := s.gen
  host := s.host
  cfg := s.cfg

end Sys2Proof.Machine
end

