-- ==== Sys2Proof/Machine/Outputs.lean ====
section
/-! DEFINITION. The output pins of a cycle (spec/00_scope.md R17), reset included (spec/70_reset_and_hazards.md R312). The
signals of Flags.lean are functions of the registers (spec/10_state.md R34 to R40); the pins carry them, but in a cycle with
`rst = 1` "the outputs are those of the reset state". -/

namespace Sys2Proof.Machine

/-- The output pins of the two sides (R17), and `strobe`, which R312 lists with them. -/
structure OutPins where
  wbAck : Bool
  wbStall : Bool
  wbDatR : Data
  hOut : Byte
  hOe : Bool
  hParOut : Bool
  strobe : Bool
  /-- `none` in the variant without a clock output (40_strobe.md R127). -/
  clkOut : Option Bool
  pOut : Byte
  pOe : Bool
  pParOut : Bool
  rCyc : Bool
  rStb : Bool
  rWe : Bool
  rAdr : Nat
  rDatW : Data
  rSel : Select
  rbDatR : BitVec 32
  deriving DecidableEq, Repr

/-- The state whose registers the outputs show in this cycle: the reset state while `rst = 1`, from the first such cycle on
(R312), the present one otherwise. Its pins are those of the cycle. -/
def State.shown (s : State) : State := if s.pins.rst then s.resetRegs else s

/-- The pins that carry the signals of a state's registers. -/
def State.signals (s : State) : OutPins where
  wbAck := s.wbAck
  wbStall := s.wbStall
  wbDatR := s.wbDatR
  hOut := s.host.hout
  hOe := s.hOe
  hParOut := s.hParOut
  strobe := s.strobe
  clkOut := s.clkOut
  pOut := s.periph.pout
  pOe := s.pOe
  pParOut := s.pParOut
  rCyc := s.rCyc
  rStb := s.rStb
  rWe := s.rWe
  rAdr := s.rAdr
  rDatW := s.rDatW
  rSel := s.rSel
  rbDatR := s.rbDatR

/-- The output pins of this cycle. -/
def State.outPins (s : State) : OutPins := s.shown.signals

end Sys2Proof.Machine
end

