-- ==== Sys2Proof/Machine/Environment.lean ====
section
/-! DEFINITION. The ideal initiator and the ideal responder of the spec's examples as a closed loop around the machine:
the transaction-script notation (spec/30_encoding.md R109), "executed in order by an ideal initiator that presents each
request from the cycle after the previous completion (or from cycle 0) and holds it until `wb_ack`", and a responder
"with a fixed wait `L`" (spec/95_test_vectors.md, head). The machine itself takes any pins in any cycle; this file only
builds the pins those two agents drive. -/

namespace Sys2Proof.Machine

/-- The statements of the script notation (R109). -/
inductive Stmt
  /-- `WR a, d, s`: a wide-bus write request. -/
  | wr (addr : Nat) (data : Data) (sel : Select)
  /-- `RD a`: a wide-bus read request; its result is `wb_dat_r` in the completion cycle. -/
  | rd (addr : Nat)
  /-- `CFGW off, v, m`: a register-bus write for one cycle. -/
  | cfgw (off : BitVec 3) (value : BitVec 32) (sel : BitVec 4)
  /-- `CFGR off`: a register-bus read; its result is `rb_dat_r` in the same cycle. -/
  | cfgr (off : BitVec 3)
  /-- `IDLE n`: `n` cycles with no request on either bus. -/
  | idle (cycles : Nat)
  deriving DecidableEq, Repr

/-- A script being run. -/
structure Bench where
  script : List Stmt
  /-- The responder's wait `L` (R257). -/
  wait : Nat
  /-- The peripheral cycles the present request has waited. -/
  waited : Nat
  /-- The results of the `RD` statements so far, in order. -/
  readResults : List Data
  /-- The results of the `CFGR` statements so far, in order. -/
  configResults : List (BitVec 32)
  machine : State
  deriving DecidableEq, Repr

/-- The pins a statement drives in a cycle in which it is being executed (R109). -/
def Stmt.drive (p : Pins) : Stmt → Pins
  | .wr a d s => { p with wbCyc := true, wbStb := true, wbWe := true, wbAdr := a, wbDatW := d, wbSel := s }
  | .rd a => { p with wbCyc := true, wbStb := true, wbWe := false, wbAdr := a }
  | .cfgw off v m => { p with rbWe := true, rbAdr := off, rbDatW := v, rbSel := m }
  | .cfgr off => { p with rbWe := false, rbAdr := off }
  | .idle _ => p

/-- The ideal responder "acknowledges in the `(L+1)`-th peripheral cycle in which it sees the request"
(95_test_vectors.md, head). -/
def Bench.ack (b : Bench) : Bool := b.machine.rCyc && decide (b.wait ≤ b.waited)

/-- The machine with this cycle's pins presented. -/
def Bench.presented (b : Bench) : State :=
  let p := { Pins.quiet with rAck := b.ack }
  let pins := match b.script with
    | [] => p
    | stmt :: _ => stmt.drive p
  { b.machine with inputs := [pins] }

/-- What is left of the script after this cycle: a request stays until the cycle with `wb_ack = 1`; a register-bus
access takes one cycle (R109). -/
def Bench.scriptNext (b : Bench) : List Stmt :=
  match b.script with
  | [] => []
  | .wr a d s :: rest => if b.machine.wbAck then rest else .wr a d s :: rest
  | .rd a :: rest => if b.machine.wbAck then rest else .rd a :: rest
  | .cfgw _ _ _ :: rest => rest
  | .cfgr _ :: rest => rest
  | .idle n :: rest => if n ≤ 1 then rest else .idle (n - 1) :: rest

/-- The read results after this cycle. -/
def Bench.readsNext (b : Bench) : List Data :=
  match b.script with
  | .rd _ :: _ => if b.machine.wbAck then b.readResults ++ [b.machine.wbDatR] else b.readResults
  | _ => b.readResults

/-- The register reads after this cycle. -/
def Bench.configReadsNext (b : Bench) : List (BitVec 32) :=
  match b.script with
  | .cfgr _ :: _ => b.configResults ++ [b.presented.rbDatR]
  | _ => b.configResults

/-- The responder's waiting time after this cycle: it is stepped once per peripheral cycle (R257 (a)). -/
def Bench.waitedNext (b : Bench) : Nat :=
  if b.presented.pAdv then (if b.machine.rCyc && !b.ack then b.waited + 1 else 0) else b.waited

/-- One cycle of the closed loop. -/
def Bench.step (b : Bench) : Host.Outcome Bench Fault Refusal :=
  match Sys2Proof.Machine.step b.presented with
  | .next s => .next { b with
      script := b.scriptNext
      waited := b.waitedNext
      readResults := b.readsNext
      configResults := b.configReadsNext
      machine := s }
  | .fault f => .fault f
  | .refused r => .refused r

end Sys2Proof.Machine
end

