-- ==== Sys2Proof/Safety.lean ====
section
/-! DEFINITION. The predicates the claims are stated with: when a cycle runs, the invariants of the state, the phase
relation of the two controllers, and the duties of the environment. -/

namespace Sys2Proof.Machine

/-! ### When a cycle runs -/

/-- A cycle that neither stops nor resets: the configuration is one the spec runs (60_exceptions.md R285), `rst` is
low and no model-level fault holds. -/
abbrev State.live (s : State) : Prop :=
  refusalOf s.params = none ∧ s.pins.rst = false ∧ s.stop? = none

/-! ### Registers keep their widths -/

/-- The host's registers fit the widths of 10_state.md R26 and R27. -/
abbrev HostRegs.wf (w : Widths) (h : HostRegs) : Prop :=
  h.haddr < 2 ^ w.a ∧ h.hdata.toNat < 2 ^ w.d ∧ h.hsel.toNat < 2 ^ w.nd ∧ h.hcount < max w.na w.nd

/-- The peripheral's registers fit the widths of 10_state.md R29 and R30. -/
abbrev PeriphRegs.wf (w : Widths) (r : PeriphRegs) : Prop :=
  r.paddr < 2 ^ w.a ∧ r.pdata.toNat < 2 ^ w.d ∧ r.psel.toNat < 2 ^ w.nd ∧ r.pcount < max w.na w.nd

/-- Every listed cell lies in the responder's address space: an address below `2^A`, a lane below ND. -/
def Memory.within (w : Widths) : Memory → Bool
  | [] => true
  | (k, _) :: rest => decide (k / 8 < 2 ^ w.a) && decide (k % 8 < w.nd) && Memory.within w rest

/-- The state invariant: registers fit their widths, memory is canonical and lies in the address space. -/
abbrev State.wf (s : State) : Prop :=
  s.host.wf s.params.hostWidths ∧ s.periph.wf s.params.periphWidths ∧
    s.mem.wf = true ∧ s.mem.within s.params.periphWidths = true

/-! ### Output bytes by state -/

/-- The output byte each host state drives (42_host.md R167), the payload states aside. -/
def HostRegs.outputFits (h : HostRegs) : Bool :=
  match h.hstate with
  | .idle | .writeAck | .readAck | .readData | .wishboneAck => h.hout == 0x00
  | .writeCmd => h.hout == 0x03
  | .readCmd => h.hout == 0x02
  | .writeAddr | .writeSel | .writeData | .readAddr => true

/-- The output byte each peripheral state drives (43_peripheral.md R204), and zero in the states that do not drive
(D21). -/
def PeriphRegs.outputFits (r : PeriphRegs) : Bool :=
  match r.pstate with
  | .writeAck => r.pout == 0x83
  | .readAck => r.pout == 0x82
  | .readData => true
  | .idle | .writeAddr | .writeSel | .writeData | .writeWishbone | .readAddr | .readWishbone => r.pout == 0x00

/-- Both output bytes are those of the states. -/
def State.outputsFit (s : State) : Bool := s.host.outputFits && s.periph.outputFits

/-! ### The two controllers in step -/

/-- The pairs of phases two controllers in step go through (45_link_and_transactions.md R254): while a field is sent
both countdowns agree; in the completion cycle the peripheral is idle and no tick falls (42_host.md R165). -/
def State.phasesAgree (s : State) : Bool :=
  match s.host.hstate, s.periph.pstate with
  | .idle, .idle => true
  | .writeCmd, .idle => true
  | .readCmd, .idle => true
  | .writeAddr, .writeAddr => s.host.hcount == s.periph.pcount
  | .readAddr, .readAddr => s.host.hcount == s.periph.pcount
  | .writeSel, .writeSel => true
  | .writeData, .writeData => s.host.hcount == s.periph.pcount
  | .writeAck, .writeWishbone => true
  | .writeAck, .writeAck => true
  | .readAck, .readWishbone => true
  | .readAck, .readAck => true
  | .readData, .readData => s.host.hcount == s.periph.pcount
  | .wishboneAck, .idle => !s.gen.raw s.params.strobeVariant s.cfg
  | _, _ => false

/-- The link in step: one peripheral, both ends of the same widths, phases and output bytes agree. -/
abbrev State.inSync (s : State) : Prop :=
  s.params.attached = true ∧ s.params.hostWidths = s.params.periphWidths ∧
    s.outputsFit = true ∧ s.phasesAgree = true

/-- "provided `BUS_FLOAT` never reads `0x83` at a tick while the host is in `h.WRITE_ACK`, nor `0x82` at a tick while it
is in `h.READ_ACK`" (R254), for this cycle. -/
abbrev State.floatHarmless (s : State) : Prop := s.floatByte ≠ 0x82 ∧ s.floatByte ≠ 0x83

/-! ### The environment's duties -/

/-- The pins of the following cycle. -/
def State.nextPins (s : State) : Pins := s.inputs.tail.headD Pins.quiet

/-- Two cycles present the same wide-bus request. -/
abbrev Pins.sameRequest (p q : Pins) : Prop :=
  q.wbCyc = p.wbCyc ∧ q.wbStb = p.wbStb ∧ q.wbWe = p.wbWe ∧ q.wbAdr = p.wbAdr ∧ q.wbDatW = p.wbDatW ∧
    q.wbSel = p.wbSel

/-- "Once presented, the request and its operands are held unchanged in every cycle up to and including the cycle in
which `wb_ack = 1`" (R256 (b)), for this cycle and the next. -/
abbrev State.requestHeld (s : State) : Prop :=
  s.pins.pending = true → s.wbAck = false → s.pins.sameRequest s.nextPins

/-- A transaction in flight still has its request on the pins. -/
abbrev State.busyRequested (s : State) : Prop := s.host.hstate ≠ .idle → s.pins.pending = true

/-- Nothing but the wide bus and the responder acts in the next `n` cycles: no reset and no register-bus write. -/
def quietFor : Nat → List Pins → Bool
  | 0, _ => true
  | n + 1, ps =>
    !(ps.headD Pins.quiet).rst && !(ps.headD Pins.quiet).rbWe && quietFor n ps.tail

/-- The pins `k` cycles from now. -/
def State.pinsAt (s : State) (k : Nat) : Pins := s.inputs.getD k Pins.quiet

/-! ### Ticks -/

/-- The bus period `P = 2^(cfg_div+1)` in cycles (40_strobe.md R126). -/
def ConfigRegs.period (c : ConfigRegs) : Nat := 2 ^ (c.cfgDiv.toNat + 1)

/-- The strobe generator at a tick of its undisturbed train (40_strobe.md R126, R127): the selected bit has just risen,
the bits below it being 0; or the countdown is 0. After a divisor change one tick can fall elsewhere (R129). -/
def StrobeRegs.onTick (v : StrobeVariant) (g : StrobeRegs) (c : ConfigRegs) : Bool :=
  match v with
  | .tapEdge => g.ctr.toNat % c.period == 2 ^ c.cfgDiv.toNat && !g.prev
  | .modN => g.cd == 0

/-- The strobe generator after `n` cycles with an unchanging divisor. -/
def StrobeRegs.after (v : StrobeVariant) (c : ConfigRegs) : Nat → StrobeRegs → StrobeRegs
  | 0, g => g
  | n + 1, g => StrobeRegs.after v c n (g.next v c)

/-! ### A transaction from its acceptance tick -/

/-- Where the end-to-end rules R260 and R261 start: an accepted configuration, the link in step, both ends idle, the
acceptance tick of an undisturbed strobe train with `cfg_en = 1`, a request on the pins, an undriven bus that reads as a
harmless platform byte (R254, R323), and no reset or register-bus write in the next `n` cycles. -/
abbrev State.acceptsFor (s : State) (n : Nat) : Prop :=
  refusalOf s.params = none ∧ s.inSync ∧ s.host.hstate = .idle ∧ s.cfg.cfgEn = true ∧
    s.gen.onTick s.params.strobeVariant s.cfg = true ∧ s.pins.pending = true ∧
    (∃ b, s.params.busFloat = some b ∧ b ≠ 0x82 ∧ b ≠ 0x83) ∧ quietFor n s.inputs = true

/-- The responder asked at tick `k` waits `l` peripheral cycles and acknowledges in the next (R257). -/
abbrev State.responderWaits (s : State) (k l : Nat) : Prop :=
  (∀ j < l, (s.pinsAt ((k + j) * s.cfg.period)).rAck = false) ∧ (s.pinsAt ((k + l) * s.cfg.period)).rAck = true

/-- Where an answer starts: an accepted configuration, the link in step, a tick of an undisturbed strobe train with
`cfg_en = 1` at which the responder acknowledges, a harmless undriven bus, and no reset or register-bus write in the next
`n` cycles. -/
abbrev State.answersFor (s : State) (n : Nat) : Prop :=
  refusalOf s.params = none ∧ s.inSync ∧ s.pins.rAck = true ∧ s.cfg.cfgEn = true ∧
    s.gen.onTick s.params.strobeVariant s.cfg = true ∧
    (∃ b, s.params.busFloat = some b ∧ b ≠ 0x82 ∧ b ≠ 0x83) ∧ quietFor n s.inputs = true

/-- The state `n` cycles of the machine lead to, if nothing stops it. -/
abbrev reaches (n : Nat) (s t : State) : Prop := Host.Core.run Sys2Proof.core n s = .next t

/-- From the tick `s` on, one end drives the given bytes, each for exactly one bus period, in which both ends sample it in
the last cycle, a tick, and in no other; in the cycle after them nobody drives. -/
abbrev State.sends (s : State) (who : Driver) (bytes : List Byte) : Prop :=
  (∀ k < bytes.length, ∀ c, k * s.cfg.period < c → c ≤ (k + 1) * s.cfg.period →
    ∃ u, reaches c s u ∧ u.driver = who ∧ some u.bus = bytes[k]? ∧ (u.strobe = true ↔ c = (k + 1) * s.cfg.period)) ∧
    ∃ u, reaches (bytes.length * s.cfg.period + 1) s u ∧ u.driver = .nobody

end Sys2Proof.Machine
end

