-- ==== Sys2Proof/Certificates/Slice0/Obligations.lean ====
section
/-! DEFINITION. The statements for the provers. Each docstring names the rules of spec/ it rests on. A statement about a
step or a command says it of every state, reachable or not; `State.live` (Safety.lean) are the cycles that neither stop nor
reset. -/

open Sys2Proof Sys2Proof.Machine

/-! ### Encoding -/

/-- The four command bytes of spec/opcode_table.json, written out bit by bit, decode to their commands, and no other byte
decodes (R91). -/
def Obligations.CommandBytesDecode : Prop :=
  decodeByte 0b00000010#8 = some .read ∧ decodeByte 0b00000011#8 = some .write ∧
    decodeByte 0b10000010#8 = some .readAck ∧ decodeByte 0b10000011#8 = some .writeAck ∧
    ∀ b : Byte, b ∉ [0x02#8, 0x03#8, 0x82#8, 0x83#8] → decodeByte b = none

/-- A command's bytes decode to it and leave the rest (R91). -/
def Obligations.CommandDecodesFromItsBytes : Prop :=
  ∀ (i : Instr) (rest : List Byte), i.wf = true → decode (encode i ++ rest) = .ok (i, rest)

/-- Every well-formed frame, at any widths R7 allows, decodes from its bytes with every operand, and leaves the rest
(R94 to R97, R99 to R102). -/
def Obligations.FrameDecodesFromItsBytes : Prop :=
  ∀ (w : Widths) (f : Frame) (rest : List Byte), w.wf = true → f.wf w = true →
    decodeFrame w (encodeFrame w f ++ rest) = .ok (f, rest)

/-- The command byte alone decides the length of a frame (R94 to R97, R99). -/
def Obligations.FrameLengthDecidedByCommand : Prop :=
  ∀ (w : Widths) (f : Frame),
    (encodeFrame w f).head? = some f.command.byte ∧
      (encodeFrame w f).length = 1 + (match f.command with
        | .read => w.na
        | .write => w.na + 1 + w.nd
        | .readAck => w.nd
        | .writeAck => 0)

/-- R141: the acknowledgment bytes, which are the request bytes with bit 7 set; the peripheral emits them when the responder
acknowledges. -/
def Obligations.AckBytesAreRequestsWithBit7 : Prop :=
  encodeAck .read = 0x82#8 ∧ encodeAck .write = 0x83#8 ∧
    (∀ dir : Direction, encodeAck dir = 0x80#8 ||| encodeRequest dir) ∧
    ∀ s : State, s.live → s.strobe = true → s.params.attached = true → s.pins.rAck = true → ∃ t, step s = .next t ∧
      (s.periph.pstate = .writeWishbone → t.periph.pout = encodeAck .write) ∧
      (s.periph.pstate = .readWishbone → t.periph.pout = encodeAck .read)

/-- R142: `is_ack` is equality with the expected acknowledgment, so that an acknowledgment of the other direction and the
host's own request byte are not accepted; the waiting host uses it with its direction, and on any mismatch simply waits. -/
def Obligations.IsAckIsEquality : Prop :=
  (∀ (b : Byte) (dir : Direction), isAck b dir = true ↔
    b = (match dir with
      | .read => 0x82#8
      | .write => 0x83#8)) ∧
    ∀ s : State, s.live → s.strobe = true → ∃ t, step s = .next t ∧
      (s.host.hstate = .writeAck →
        t.host = if isAck s.bus .write = true then { s.host with hstate := .wishboneAck } else s.host) ∧
      (s.host.hstate = .readAck →
        t.host = if isAck s.bus .read = true then
            { s.host with hstate := .readData, hdata := 0, hcount := s.params.hostWidths.nd - 1 }
          else s.host)

/-- R143: parity is the exclusive or of the eight bits, which is 1 exactly for an odd number of ones; `PARITY_INVERT` negates
it. It is linear, and both ends put it beside their output byte in every cycle (R144). -/
def Obligations.ParityIsOddCount : Prop :=
  (∀ b : Byte, parity false b = decide (((List.range 8).countP fun i => b.getLsbD i) % 2 = 1)) ∧
    (∀ b : Byte, parity true b = !parity false b) ∧
      (∀ a b : Byte, parity false (a ^^^ b) = (parity false a ^^ parity false b)) ∧
        ∀ s : State, s.hParOut = parity s.params.parityInvert s.host.hout ∧
          s.pParOut = parity s.params.parityInvert s.periph.pout

/-- The address bytes, least significant first, inserted one after the other give back the address, whatever the register
held before (R100, R63). -/
def Obligations.AddressBytesAssemble : Prop :=
  ∀ (w : Widths) (a v : Nat), w.wf = true → a < 2 ^ w.a → v < 2 ^ w.a →
    (bytesOfNat w.na a).foldl (fun r b => addrInsert w.a b r) v = a

/-- The data bytes, least significant first, inserted one after the other give back the data, whatever the register held
before: "`pdata` need not be cleared" (R101, R196). -/
def Obligations.DataBytesAssemble : Prop :=
  ∀ (w : Widths) (d v : Data), w.wf = true → d.toNat < 2 ^ w.d → v.toNat < 2 ^ w.d →
    (bytesOfNat w.nd d.toNat).foldl (fun r b => dataInsert w.d b r) v = d

/-! ### A step and its command -/

/-- A step runs the decoded instruction (that a step is the execution of the byte's command in every cycle, heard or not, is
the model's choice, log 1): when the byte on the bus decodes to a well-formed command, the step is that
command's execution, in every cycle (where no controller listens for it the command's meaning leaves the byte to be payload
or to be ignored). Every other live cycle is the clock edge at which both ends sample the byte on the bus. -/
def Obligations.StepRunsTheCommandOnTheBus : Prop :=
  (∀ (s : State) (i : Instr), decode [s.bus] = .ok (i, []) → i.wf = true → step s = exec i s) ∧
    ∀ s : State, s.live → decodeByte s.bus = none → step s = .next (s.edgeWith s.bus)

/-- Every command completes in every live cycle, and so does every step: the only stops are the named faults and the
refused configurations (R280, R285). -/
def Obligations.LiveCyclesComplete : Prop :=
  ∀ s : State, s.live → (∀ i : Instr, ∃ t, exec i s = .next t) ∧ ∃ t, step s = .next t

/-- From the reset state each command byte, placed where a step takes its next command, is decoded and executed. -/
def Obligations.PlacedCommandRunsAfterReset : Prop :=
  ∀ i : Instr, decodeTableWord 8 i.byte.toNat = some i ∧
    (State.reset.withFetchWord 8 i.byte.toNat).command? = some i ∧
      ∃ t, step (State.reset.withFetchWord 8 i.byte.toNat) = .next t ∧
        exec i (State.reset.withFetchWord 8 i.byte.toNat) = .next t

/-! ### The four commands -/

/-- READ, heard by the listening peripheral (R193, R261): it clears the address register, starts the countdown at `NA - 1`
and goes to READ_ADDR; its data and select registers, the memory and the configuration record stay; CONFIG and STATUS
change only by a register-bus write of this cycle; the host makes the transition of its own state. -/
def Obligations.ReadOpensAFrame : Prop :=
  ∀ s : State, s.live → s.strobe = true → s.params.attached = true → s.periph.pstate = .idle →
    ∃ t, exec .read s = .next t ∧
      t.periph = { s.periph with
        pstate := .readAddr, paddr := 0, pcount := s.params.periphWidths.na - 1, pout := 0x00 } ∧
      t.host = s.host.next s.params.hostWidths true s.pins 0x02 ∧
      t.params = s.params ∧ t.cfg = s.cfg.next s.pins ∧ (s.pins.rbWe = false → t.cfg = s.cfg) ∧
      ∀ k, t.mem.readByte k = s.mem.readByte k

/-- WRITE, heard by the listening peripheral (R193, R260): as READ, to WRITE_ADDR. -/
def Obligations.WriteOpensAFrame : Prop :=
  ∀ s : State, s.live → s.strobe = true → s.params.attached = true → s.periph.pstate = .idle →
    ∃ t, exec .write s = .next t ∧
      t.periph = { s.periph with
        pstate := .writeAddr, paddr := 0, pcount := s.params.periphWidths.na - 1, pout := 0x00 } ∧
      t.host = s.host.next s.params.hostWidths true s.pins 0x03 ∧
      t.params = s.params ∧ t.cfg = s.cfg.next s.pins ∧ (s.pins.rbWe = false → t.cfg = s.cfg) ∧
      ∀ k, t.mem.readByte k = s.mem.readByte k

/-- READ_ACK, heard by the waiting host (R162, R263): it clears the data register, starts the countdown at `ND - 1` and
goes to READ_DATA; its address, select and output registers stay; CONFIG and STATUS change only by a register-bus write of
this cycle, memory only if the responder acknowledges a write in this cycle. -/
def Obligations.ReadAckStartsTheCapture : Prop :=
  ∀ s : State, s.live → s.strobe = true → s.host.hstate = .readAck →
    ∃ t, exec .readAck s = .next t ∧
      t.host = { s.host with hstate := .readData, hdata := 0, hcount := s.params.hostWidths.nd - 1 } ∧
      t.periph = s.periphNext 0x82 ∧ t.params = s.params ∧ t.cfg = s.cfg.next s.pins ∧
      (s.pins.rbWe = false → t.cfg = s.cfg) ∧
      (¬ (s.pAdv = true ∧ s.periph.pstate = .writeWishbone ∧ s.pins.rAck = true) →
        ∀ k, t.mem.readByte k = s.mem.readByte k)

/-- WRITE_ACK, heard by the waiting host (R160, R262): "No register other than `hstate` changes"; the next cycle is the
completion cycle; CONFIG and STATUS change only by a register-bus write of this cycle, memory only if the responder
acknowledges a write in this cycle. -/
def Obligations.WriteAckCompletesTheWrite : Prop :=
  ∀ s : State, s.live → s.strobe = true → s.host.hstate = .writeAck →
    ∃ t, exec .writeAck s = .next t ∧
      t.host = { s.host with hstate := .wishboneAck } ∧ t.wbAck = true ∧ t.wbStall = false ∧
      t.periph = s.periphNext 0x83 ∧ t.params = s.params ∧ t.cfg = s.cfg.next s.pins ∧
      (s.pins.rbWe = false → t.cfg = s.cfg) ∧
      (¬ (s.pAdv = true ∧ s.periph.pstate = .writeWishbone ∧ s.pins.rAck = true) →
        ∀ k, t.mem.readByte k = s.mem.readByte k)

/-- The frame of every step and of every command, listened for or not, in every live cycle: the configuration record stays;
CONFIG and STATUS change only by a register-bus write; the strobe generator of the variant built moves by its own rule
(R121, R122; R127; that the other variant's registers hold is log 13); every byte of memory reads as before, except the
selected bytes of the word at `r_adr` in a cycle in which the responder acknowledges the peripheral's write; between ticks
the peripheral and a host that is neither idle nor completing stay (R32, R33, R130, R151, R191, R257). -/
def Obligations.CommandFrame : Prop :=
  ∀ s t : State, s.live → (step s = .next t ∨ ∃ i, exec i s = .next t) →
    t.params = s.params ∧ (s.pins.rbWe = false → t.cfg = s.cfg) ∧
      t.gen = (match s.params.strobeVariant with
        | .tapEdge => ⟨s.gen.ctr + 1, s.gen.ctr.getLsbD s.cfg.cfgDiv.toNat, s.gen.cd⟩
        | .modN => ⟨s.gen.ctr, s.gen.prev,
            if s.gen.cd = 0 then BitVec.ofNat 8 (2 ^ (s.cfg.cfgDiv.toNat + 1) - 1) else s.gen.cd - 1⟩) ∧
      (¬ (s.pAdv = true ∧ s.periph.pstate = .writeWishbone ∧ s.pins.rAck = true) →
        ∀ k, t.mem.readByte k = s.mem.readByte k) ∧
      (s.mem.wf = true → ∀ k,
        ¬ (k / 8 = s.rAdr ∧ k % 8 < s.params.periphWidths.nd ∧ s.rSel.getLsbD (k % 8) = true) →
          t.mem.readByte k = s.mem.readByte k) ∧
      (s.strobe = false → t.periph = s.periph ∧
        (s.host.hstate ≠ .idle → s.host.hstate ≠ .wishboneAck → t.host = s.host))

/-- A byte that is neither READ nor WRITE leaves the idle peripheral idle, and a byte that is not the expected
acknowledgment leaves the waiting host as it is (R104, R105). -/
def Obligations.UnrecognisedByteIsNoOp : Prop :=
  ∀ s : State, s.live → ∃ t, step s = .next t ∧
    (s.periph.pstate = .idle → s.bus ≠ 0x02 → s.bus ≠ 0x03 →
      t.periph = s.periph ∨ t.periph = { s.periph with pout := 0x00 }) ∧
    (s.host.hstate = .writeAck → s.bus ≠ 0x83 → t.host = s.host) ∧
    (s.host.hstate = .readAck → s.bus ≠ 0x82 → t.host = s.host)

/-- In the states that receive nothing the inbound byte is not looked at (R106), for each controller by itself: whatever
the other is doing, a step leaves the registers that any other byte, and any command, would leave. The same of each side
alone, for any two bytes (R255); where both ends are in such states every command has the outcome of the step. -/
def Obligations.InboundByteIgnoredOutsideReceivingStates : Prop :=
  (∀ s : State, s.live → ∃ t, step s = .next t ∧
    (s.host.hstate ∉ [HState.writeAck, .readAck, .readData] →
      (∀ b : Byte, s.host.next s.params.hostWidths s.strobe s.pins b = t.host) ∧
        ∀ i : Instr, ∃ u, exec i s = .next u ∧ u.host = t.host) ∧
    (s.periph.pstate ∉ [PState.idle, .writeAddr, .readAddr, .writeSel, .writeData] →
      (∀ b : Byte, s.periph.advance s.params.periphWidths s.pAdv b s.pins.rAck s.rDatR = t.periph) ∧
        ∀ i : Instr, ∃ u, exec i s = .next u ∧ u.periph = t.periph)) ∧
  (∀ (h : HostSide) (p : Pins) (b c : Byte), h.host.hstate ∉ [HState.writeAck, .readAck, .readData] →
    h.step p b = h.step p c) ∧
  (∀ (w : Widths) (rst pAdv : Bool) (b c : Byte) (ack : Bool) (q : Data) (r : PeriphRegs),
    r.pstate ∉ [PState.idle, .writeAddr, .readAddr, .writeSel, .writeData] →
    r.step w rst pAdv b ack q = r.step w rst pAdv c ack q) ∧
  ∀ s : State, s.host.hstate ∉ [HState.writeAck, .readAck, .readData] →
    s.periph.pstate ∉ [PState.idle, .writeAddr, .readAddr, .writeSel, .writeData] →
    ∀ i : Instr, exec i s = step s

/-! ### Strobe generator -/

/-- R121: `ctr` counts up in every cycle but a reset cycle, wrapping modulo 2^8, whatever the enable bit and whatever is
written to CONFIG; R122: `prev` takes the selected bit. -/
def Obligations.CounterRunsFree : Prop :=
  ∀ s : State, s.live → s.params.strobeVariant = .tapEdge →
    ∃ t, step s = .next t ∧ t.gen.ctr.toNat = (s.gen.ctr.toNat + 1) % 256 ∧
      t.gen.prev = s.gen.ctr.getLsbD s.cfg.cfgDiv.toNat

/-- "`raw` is never 1 in two consecutive cycles, whatever `cfg_div` does" (R123), and whatever the gate does, so that two
consecutive cycles are never both ticks; the same holds of ModN (R127), a reset between the two cycles aside. -/
def Obligations.TicksNeverAdjacent : Prop :=
  ∀ s t : State, step s = .next t → s.pins.rst = false →
    (s.gen.raw s.params.strobeVariant s.cfg = true → t.gen.raw t.params.strobeVariant t.cfg = false ∧ t.strobe = false) ∧
      (s.strobe = true → t.strobe = false)

/-- TapEdge with constant divisor `i` and `gate = 1`, from reset: the ticks are exactly the cycles `t` with
`t mod 2^(i+1) = 2^i` (R126). -/
def Obligations.TapEdgeTicksFromReset : Prop :=
  ∀ (c : ConfigRegs) (n : Nat),
    (StrobeRegs.after .tapEdge c n StrobeRegs.reset).raw .tapEdge c =
      decide (n % 2 ^ (c.cfgDiv.toNat + 1) = 2 ^ c.cfgDiv.toNat)

/-- ModN with constant divisor `i` and `gate = 1`, from reset: the ticks are exactly the cycles `t` with
`t mod 2^(i+1) = 0` (R127). -/
def Obligations.ModNTicksFromReset : Prop :=
  ∀ (c : ConfigRegs) (n : Nat),
    (StrobeRegs.after .modN c n StrobeRegs.reset).raw .modN c = decide (n % 2 ^ (c.cfgDiv.toNat + 1) = 0)

/-- Either variant, at a tick of its undisturbed train: while the divisor stays, the next ticks come exactly every
`2^(cfg_div+1)` cycles (R128). -/
def Obligations.TicksOnePeriodApart : Prop :=
  ∀ (v : StrobeVariant) (g : StrobeRegs) (c : ConfigRegs) (n : Nat), g.onTick v c = true →
    (StrobeRegs.after v c n g).raw v c = decide (n % 2 ^ (c.cfgDiv.toNat + 1) = 0)

/-- With `cfg_en = 1` the two enable semantics coincide (R124): a step does the same under either. -/
def Obligations.EnableSemanticsCoincideWhenEnabled : Prop :=
  ∀ (s t : State) (e : EnableSemantics), s.cfg.cfgEn = true → step s = .next t →
    step { s with params := { s.params with enableSemantics := e } } =
      .next { t with params := { t.params with enableSemantics := e } }

/-! ### Configuration Register File -/

/-- R232: a write presented to CONFIG gives both fields the values of `rb_dat_w[3:0]` in the next cycle if byte 0 is selected,
and changes nothing otherwise; STATUS stays (R233). -/
def Obligations.ConfigWriteLandsNextCycle : Prop :=
  ∀ s : State, s.live → s.pins.rbWe = true → s.pins.rbAdr.getLsbD 2 = false →
    ∃ t, step s = .next t ∧
      t.cfg = if s.pins.rbSel.getLsbD 0 = true then
          ⟨s.pins.rbDatW.extractLsb' 0 3, s.pins.rbDatW.getLsbD 3, s.cfg.status⟩
        else s.cfg

/-- Nothing but a register-bus write with byte 0 selected changes CONFIG, and nothing but a register-bus write changes
STATUS, a reset aside (R32, R33, R232). -/
def Obligations.RegistersChangeOnlyByWrite : Prop :=
  ∀ s : State, s.live → ∃ t, step s = .next t ∧
    (¬ (s.pins.rbWe = true ∧ s.pins.rbAdr.getLsbD 2 = false ∧ s.pins.rbSel.getLsbD 0 = true) →
      t.cfg.cfgDiv = s.cfg.cfgDiv ∧ t.cfg.cfgEn = s.cfg.cfgEn) ∧
    (¬ (s.pins.rbWe = true ∧ s.pins.rbAdr.getLsbD 2 = true) → t.cfg.status = s.cfg.status)

/-- R234: a write presented to STATUS replaces exactly the selected bytes; CONFIG stays, and there is no side effect: but for
the register file the next state is that of the same cycle without the write. -/
def Obligations.StatusWriteReplacesSelectedBytes : Prop :=
  ∀ s : State, s.live → s.pins.rbWe = true → s.pins.rbAdr.getLsbD 2 = true →
    ∃ t, step s = .next t ∧ t.cfg.cfgDiv = s.cfg.cfgDiv ∧ t.cfg.cfgEn = s.cfg.cfgEn ∧
      step { s with inputs := { s.pins with rbWe := false } :: s.inputs.tail } = .next { t with cfg := s.cfg } ∧
      ∀ i < 4, t.cfg.status.extractLsb' (8 * i) 8 =
        if s.pins.rbSel.getLsbD i then s.pins.rbDatW.extractLsb' (8 * i) 8 else s.cfg.status.extractLsb' (8 * i) 8

/-- R231: a read shows the register the offset selects, CONFIG with the divisor in bits [2:0], the enable bit in bit 3 and
zeros above; select and write strobe play no part. -/
def Obligations.RegisterReadShowsHeldValue : Prop :=
  ∀ s : State, s.rbDatR =
    if s.pins.rbAdr.getLsbD 2 then s.cfg.status else 0#28 ++ BitVec.ofBool s.cfg.cfgEn ++ s.cfg.cfgDiv

/-! ### Host Controller -/

/-- IDLE (R153): at a tick with a pending write the host captures address, data and select and emits `0x03`; with a pending
read it captures the address only and emits `0x02`; in every other cycle, tick or not, it drives zero and stays. -/
def Obligations.IdleHostAcceptsAtATick : Prop :=
  ∀ s : State, s.live → s.host.hstate = .idle → ∃ t, step s = .next t ∧
    t.host =
      if s.strobe = true ∧ s.pins.wbCyc = true ∧ s.pins.wbStb = true then
        if s.pins.wbWe = true then
          { s.host with
            haddr := s.pins.wbAdr % 2 ^ s.params.hostWidths.a
            hdata := s.pins.data s.params.hostWidths
            hsel := s.pins.sel s.params.hostWidths
            hout := 0x03
            hstate := .writeCmd }
        else { s.host with haddr := s.pins.wbAdr % 2 ^ s.params.hostWidths.a, hout := 0x02, hstate := .readCmd }
      else { s.host with hout := 0x00 }

/-- The address phase (R154 to R157): each tick emits the low byte of the address register and shifts it right by eight;
the command state starts the countdown at `NA - 1`; at countdown 0 a write emits the select byte and goes to WRITE_SEL, a
read emits zero and goes to READ_ACK. -/
def Obligations.HostSendsTheAddress : Prop :=
  ∀ s : State, s.live → s.strobe = true → ∃ t, step s = .next t ∧
    (s.host.hstate = .writeCmd → t.host = { s.host with
      hout := BitVec.ofNat 8 s.host.haddr, haddr := s.host.haddr / 256, hcount := s.params.hostWidths.na - 1,
      hstate := .writeAddr }) ∧
    (s.host.hstate = .readCmd → t.host = { s.host with
      hout := BitVec.ofNat 8 s.host.haddr, haddr := s.host.haddr / 256, hcount := s.params.hostWidths.na - 1,
      hstate := .readAddr }) ∧
    (s.host.hstate = .writeAddr → t.host =
      if s.host.hcount = 0 then { s.host with hout := s.host.hsel, hstate := .writeSel }
      else { s.host with
        hout := BitVec.ofNat 8 s.host.haddr, haddr := s.host.haddr / 256, hcount := s.host.hcount - 1 }) ∧
    (s.host.hstate = .readAddr → t.host =
      if s.host.hcount = 0 then { s.host with hout := 0x00, hstate := .readAck }
      else { s.host with
        hout := BitVec.ofNat 8 s.host.haddr, haddr := s.host.haddr / 256, hcount := s.host.hcount - 1 })

/-- The data phases: WRITE_SEL starts the countdown at `ND - 1` and emits the low data byte (R158); WRITE_DATA emits the
rest and then zero (R159); READ_DATA takes a byte at the top of the register at every tick, the one at countdown 0
included, and completes there (R163). -/
def Obligations.HostMovesTheData : Prop :=
  ∀ s : State, s.live → s.strobe = true → ∃ t, step s = .next t ∧
    (s.host.hstate = .writeSel → t.host = { s.host with
      hout := s.host.hdata.extractLsb' 0 8, hdata := s.host.hdata >>> 8, hcount := s.params.hostWidths.nd - 1,
      hstate := .writeData }) ∧
    (s.host.hstate = .writeData → t.host =
      if s.host.hcount = 0 then { s.host with hout := 0x00, hstate := .writeAck }
      else { s.host with
        hout := s.host.hdata.extractLsb' 0 8, hdata := s.host.hdata >>> 8, hcount := s.host.hcount - 1 }) ∧
    (s.host.hstate = .readData →
      t.host.hdata = s.host.hdata >>> 8 ||| s.bus.setWidth 64 <<< (s.params.hostWidths.d - 8) ∧
      t.host.haddr = s.host.haddr ∧ t.host.hsel = s.host.hsel ∧ t.host.hout = s.host.hout ∧
      t.host.hstate = (if s.host.hcount = 0 then .wishboneAck else .readData) ∧
      t.host.hcount = s.host.hcount - 1)

/-- WISHBONE_ACK lasts exactly one cycle, tick or not, with `wb_ack = 1` and `wb_stall = 0`, and returns to IDLE with every
other host register as it was (R164, R165). -/
def Obligations.CompletionLastsOneCycle : Prop :=
  ∀ s : State, s.live → s.host.hstate = .wishboneAck →
    s.wbAck = true ∧ s.wbStall = false ∧ s.hOe = false ∧
      ∃ t, step s = .next t ∧ t.host = { s.host with hstate := .idle } ∧ t.wbAck = false

/-- A busy host looks at none of the wide-bus pins: changing or withdrawing the request changes no outcome (R166). -/
def Obligations.BusyHostIgnoresTheRequest : Prop :=
  ∀ (s : State) (q : Pins), s.host.hstate ≠ .idle →
    step { s with inputs := { s.pins with
      wbCyc := q.wbCyc, wbStb := q.wbStb, wbWe := q.wbWe, wbAdr := q.wbAdr, wbDatW := q.wbDatW, wbSel := q.wbSel } ::
        s.inputs.tail } = step s

/-! ### Peripheral Controller and responder -/

/-- The peripheral receives (R194 to R197): in every peripheral cycle it puts the bus byte on top of the address or data
register, the byte at countdown 0 included, and then moves on; WRITE_SEL keeps the `ND` low bits of the byte. -/
def Obligations.PeripheralTakesTheFrame : Prop :=
  ∀ s : State, s.live → s.strobe = true → s.params.attached = true → ∃ t, step s = .next t ∧
    (s.periph.pstate = .writeAddr ∨ s.periph.pstate = .readAddr → t.periph = { s.periph with
      paddr := s.periph.paddr / 256 + s.bus.toNat * 2 ^ (s.params.periphWidths.a - 8)
      pcount := s.periph.pcount - 1
      pstate := if s.periph.pcount ≠ 0 then s.periph.pstate
        else if s.periph.pstate = .writeAddr then .writeSel else .readWishbone }) ∧
    (s.periph.pstate = .writeSel → t.periph = { s.periph with
      psel := (s.bus.setWidth s.params.periphWidths.nd).setWidth 8
      pcount := s.params.periphWidths.nd - 1
      pstate := .writeData }) ∧
    (s.periph.pstate = .writeData → t.periph = { s.periph with
      pdata := s.periph.pdata >>> 8 ||| s.bus.setWidth 64 <<< (s.params.periphWidths.d - 8)
      pcount := s.periph.pcount - 1
      pstate := if s.periph.pcount ≠ 0 then .writeData else .writeWishbone })

/-- WRITE_WISHBONE (R198, R257): the request is on the wide bus; when the responder acknowledges, the selected bytes of the
word at `paddr` become those of `pdata`, no other byte changes, and the peripheral emits `0x83`; until then nothing of
either changes. -/
def Obligations.AcknowledgedWriteIsPerformed : Prop :=
  ∀ s : State, s.live → s.strobe = true → s.params.attached = true → s.periph.pstate = .writeWishbone →
    s.mem.wf = true →
    s.rCyc = true ∧ s.rStb = true ∧ s.rWe = true ∧ s.rAdr = s.periph.paddr ∧ s.rDatW = s.periph.pdata ∧
      s.rSel = s.periph.psel ∧ s.pOe = false ∧
      ∃ t, step s = .next t ∧
        t.periph = (if s.pins.rAck = true then { s.periph with pout := 0x83, pstate := .writeAck } else s.periph) ∧
        ∀ k, t.mem.readByte k =
          if s.pins.rAck = true ∧ k / 8 = s.periph.paddr ∧ k % 8 < s.params.periphWidths.nd ∧
              s.periph.psel.getLsbD (k % 8) = true then
            s.periph.pdata.extractLsb' (8 * (k % 8)) 8
          else s.mem.readByte k

/-- READ_WISHBONE (R200, R257): the request is on the wide bus with all bytes selected; when the responder acknowledges, the
peripheral keeps the word presented, which for the memory is byte by byte the addressed word, and emits `0x82`; memory
does not change. -/
def Obligations.AcknowledgedReadIsCaptured : Prop :=
  ∀ s : State, s.live → s.strobe = true → s.params.attached = true → s.periph.pstate = .readWishbone →
    s.rCyc = true ∧ s.rStb = true ∧ s.rWe = false ∧ s.rAdr = s.periph.paddr ∧
      s.rSel.toNat = 2 ^ s.params.periphWidths.nd - 1 ∧ s.rDatW = s.periph.pdata ∧ s.pOe = false ∧
      ∃ t, step s = .next t ∧ t.mem = s.mem ∧
        (s.pins.rAck = false → t.periph = s.periph) ∧
        (s.pins.rAck = true →
          t.periph = { s.periph with pdata := t.periph.pdata, pout := 0x82, pstate := .readAck } ∧
            ∀ i < s.params.periphWidths.nd, t.periph.pdata.extractLsb' (8 * i) 8 =
              match s.pins.rDatR with
              | some q => q.extractLsb' (8 * i) 8
              | none => s.mem.readByte (byteKey s.periph.paddr i))

/-- The peripheral answers (R199, R201, R202): WRITE_ACK is driven for one peripheral cycle; READ_ACK starts the data
countdown at `ND - 1` and emits the low byte; READ_DATA emits the rest, then zero, and returns to IDLE. -/
def Obligations.PeripheralSendsTheAnswer : Prop :=
  ∀ s : State, s.live → s.strobe = true → s.params.attached = true → ∃ t, step s = .next t ∧
    (s.periph.pstate = .writeAck → t.periph = { s.periph with pout := 0x00, pstate := .idle }) ∧
    (s.periph.pstate = .readAck → t.periph = { s.periph with
      pout := s.periph.pdata.extractLsb' 0 8, pdata := s.periph.pdata >>> 8,
      pcount := s.params.periphWidths.nd - 1, pstate := .readData }) ∧
    (s.periph.pstate = .readData → t.periph =
      if s.periph.pcount = 0 then { s.periph with pout := 0x00, pstate := .idle }
      else { s.periph with
        pout := s.periph.pdata.extractLsb' 0 8, pdata := s.periph.pdata >>> 8, pcount := s.periph.pcount - 1 })

/-- Memory changes in no step but one in which the responder acknowledges the peripheral's write request (R68, R69, R257). -/
def Obligations.MemoryChangesOnlyByAcknowledgedWrite : Prop :=
  ∀ s t : State, step s = .next t → t.mem ≠ s.mem →
    s.strobe = true ∧ s.params.attached = true ∧ s.periph.pstate = .writeWishbone ∧ s.pins.rAck = true

/-- The responder's memory: after a write the word reads, byte by byte, as the written byte where selected and as before
elsewhere, and every other word reads as before (R74, R265). -/
def Obligations.WordWriteMergesSelectedBytes : Prop :=
  ∀ (m : Memory) (a c : Nat) (v : Data) (sel : Select) (n : Nat), m.wf = true → n ≤ 8 →
    (∀ i < n, ((m.writeWord a v sel n).readWord a n).extractLsb' (8 * i) 8 =
      if sel.getLsbD i then v.extractLsb' (8 * i) 8 else (m.readWord a n).extractLsb' (8 * i) 8) ∧
    (c ≠ a → (m.writeWord a v sel n).readWord c n = m.readWord c n)

/-! ### Outputs and who drives -/

/-- The derived outputs as functions of the states (R34 to R37, R39, R40, R203): `strobe` and `clk_out` of each variant
(R123 to R125, R127; `none` where the variant has no clock output), the wide-bus outputs and the output enables. In a cycle
without reset the output pins carry them, with the two output bytes, the parity bits and the register read data. -/
def Obligations.OutputsByState : Prop :=
  ∀ s : State,
    (s.wbAck = true ↔ s.host.hstate = .wishboneAck) ∧
    (s.wbStall = true ↔ s.host.hstate ∉ [HState.idle, .wishboneAck] ∨
      s.host.hstate = .idle ∧ s.pins.wbCyc = true ∧ s.pins.wbStb = true) ∧
    (s.hOe = true ↔
      s.host.hstate ∈ [HState.idle, .writeCmd, .writeAddr, .writeSel, .writeData, .readCmd, .readAddr]) ∧
    (s.periph.oe = true ↔ s.periph.pstate ∈ [PState.writeAck, .readAck, .readData]) ∧
    (s.rCyc = true ↔ s.periph.pstate ∈ [PState.writeWishbone, .readWishbone]) ∧ s.rStb = s.rCyc ∧
    (s.rWe = true ↔ s.periph.pstate = .writeWishbone) ∧ s.rAdr = s.periph.paddr ∧ s.rDatW = s.periph.pdata ∧
    s.rSel = (if s.periph.pstate = .writeWishbone then s.periph.psel
      else BitVec.ofNat 8 (2 ^ s.params.periphWidths.nd - 1)) ∧
    s.wbDatR = s.host.hdata ∧
    (let tap := s.gen.ctr.getLsbD s.cfg.cfgDiv.toNat
     let gated := s.params.enableSemantics = .storedOnly ∨ s.cfg.cfgEn = true
     (s.params.strobeVariant = .tapEdge →
        (s.strobe = true ↔ tap = true ∧ s.gen.prev = false ∧ gated) ∧
          ∃ c, s.clkOut = some c ∧ (c = true ↔ tap = true ∧ gated)) ∧
      (s.params.strobeVariant = .modN → (s.strobe = true ↔ s.gen.cd = 0 ∧ gated) ∧ s.clkOut = none)) ∧
    (s.pins.rst = false → s.outPins =
      { wbAck := s.wbAck, wbStall := s.wbStall, wbDatR := s.wbDatR, hOut := s.host.hout, hOe := s.hOe,
        hParOut := s.hParOut, strobe := s.strobe, clkOut := s.clkOut, pOut := s.periph.pout, pOe := s.pOe,
        pParOut := s.pParOut, rCyc := s.rCyc, rStb := s.rStb, rWe := s.rWe, rAdr := s.rAdr, rDatW := s.rDatW,
        rSel := s.rSel, rbDatR := s.rbDatR })

/-- The byte on the bus (R252): the driver's output byte; `BUS_FLOAT` when nobody drives. In a cycle with reset the registers
shown are the reset state's, in which the host drives 0x00 (R312). -/
def Obligations.BusCarriesTheDriversByte : Prop :=
  ∀ s : State, s.params.attached = true →
    (s.hOe = true → s.pOe = false → s.bus = s.host.hout) ∧
    (s.hOe = false → s.pOe = true → s.bus = s.periph.pout) ∧
    (s.hOe = false → s.pOe = false → ∀ b, s.params.busFloat = some b → s.bus = b) ∧
    (s.pins.rst = true → s.shown.bus = 0x00)

/-! ### Invariants -/

/-- The registers' widths, the memory's canonical form and its address space hold after reset, in every configuration that
is run. -/
def Obligations.ResetFitsWidths : Prop :=
  (∀ p : Params, refusalOf p = none → (State.resetWith p).wf) ∧ State.reset.wf

/-- Every step keeps the widths of R26, R27, R29 and R30, the memory's canonical form and the address space. -/
def Obligations.StepKeepsWidths : Prop :=
  ∀ s t : State, s.wf → step s = .next t → t.wf

/-- The output bytes of R167 and R204 hold after reset. -/
def Obligations.ResetOutputsFit : Prop :=
  ∀ p : Params, (State.resetWith p).outputsFit = true

/-- Every step keeps the output bytes of R167 and R204: in particular "the command byte observed during the first strobe
of any transaction equals `0x02` for reads and `0x03` for writes". -/
def Obligations.StepKeepsOutputs : Prop :=
  ∀ s t : State, s.outputsFit = true → step s = .next t → t.outputsFit = true

/-- After reset a link with one peripheral and equal widths is in step (R254, R290). -/
def Obligations.ResetLinkInStep : Prop :=
  ∀ p : Params, p.attached = true → p.hostWidths = p.periphWidths → (State.resetWith p).inSync

/-- A link in step stays in step, whatever the environment does, provided the undriven bus does not read as an
acknowledgment byte (R254). -/
def Obligations.StepKeepsLinkInStep : Prop :=
  ∀ s t : State, s.inSync → s.floatHarmless → step s = .next t → t.inSync

/-- In a link in step the two ends never drive together, so no step ends in bus contention (R254, R76). -/
def Obligations.LinkInStepHasNoContention : Prop :=
  ∀ s : State, s.inSync → ¬ (s.hOe = true ∧ s.pOe = true) ∧ step s ≠ .fault .busContention

/-- Under the initiator's duty to hold its request (R256 (b)) a transaction in flight keeps its request on the pins, and
`wb_stall` equals `wb_cyc and wb_stb and not wb_ack` (R36). -/
def Obligations.StallEqualsUnfinishedRequest : Prop :=
  (∀ s t : State, s.busyRequested → s.requestHeld → s.pins.rst = false → step s = .next t → t.busyRequested) ∧
    ∀ s : State, s.busyRequested → s.wbStall = (s.pins.wbCyc && s.pins.wbStb && !s.wbAck)

/-- No step changes the configuration record, and no state of the machine depends on `PARITY_INVERT` (R9): machines that
differ in it alone step to states that differ in it alone. -/
def Obligations.ParityInvertReachesNoState : Prop :=
  ∀ (s t : State) (x : Bool), step s = .next t → t.params = s.params ∧
    step { s with params := { s.params with parityInvert := x } } =
      .next { t with params := { t.params with parityInvert := x } }

/-! ### Reset and stops -/

/-- A cycle with `rst = 1` gives every register its reset value, whatever else the cycle would do, faults included; CONFIG
takes the two OPEN parameters; the responder's memory stays (R310, R43; for the memory and the priority over the model's
own faults log 10). The output pins are those of the reset state in that very cycle, whatever the registers hold: no
acknowledge, the host drives 0x00, the peripheral does not drive, no responder request, and no strobe under TapEdge (under
ModN `raw = 1`); `wb_stall` follows the request (R312). -/
def Obligations.ResetHasPriority : Prop :=
  (∀ s : State, refusalOf s.params = none → s.pins.rst = true → ∃ t, step s = .next t ∧
    t.gen = ⟨0, false, 0⟩ ∧ t.host = ⟨.idle, 0, 0, 0, 0, 0⟩ ∧ t.periph = ⟨.idle, 0, 0, 0, 0, 0⟩ ∧
    t.cfg = ⟨s.params.cfgResetDivisor, s.params.cfgResetEnable, 0⟩ ∧ t.mem = s.mem ∧ t.params = s.params) ∧
  ∀ s : State, s.pins.rst = true →
    s.outPins.wbAck = false ∧ s.outPins.hOe = true ∧ s.outPins.hOut = 0x00 ∧ s.outPins.pOe = false ∧
    s.outPins.rCyc = false ∧ s.outPins.rStb = false ∧ s.outPins.rWe = false ∧
    s.outPins.wbStall = (s.pins.wbCyc && s.pins.wbStb) ∧
    (s.params.strobeVariant = .tapEdge → s.outPins.strobe = false) ∧
    (s.params.strobeVariant = .modN → s.shown.gen.raw .modN s.shown.cfg = true)

/-- The reset table R43, for every value of the OPEN parameters, and the outputs it names at cycle 0. -/
def Obligations.ResetTable : Prop :=
  ∀ p : Params, (State.resetWith p).gen = ⟨0, false, 0⟩ ∧ (State.resetWith p).host = ⟨.idle, 0, 0, 0, 0, 0⟩ ∧
    (State.resetWith p).periph = ⟨.idle, 0, 0, 0, 0, 0⟩ ∧
    (State.resetWith p).cfg = ⟨p.cfgResetDivisor, p.cfgResetEnable, 0⟩ ∧
    (p.strobeVariant = .tapEdge → (State.resetWith p).strobe = false) ∧
    (State.resetWith p).wbAck = false ∧ (State.resetWith p).wbStall = false ∧ (State.resetWith p).hOe = true ∧
    (State.resetWith p).pOe = false ∧ (State.resetWith p).rCyc = false ∧ (State.resetWith p).rWe = false ∧
    (State.resetWith p).wbDatR = 0

/-- The model-level faults, each exactly when its rule says (R252, R320, R321); where two hold in one cycle the earlier in
this list is reported (the model's choice, log 9), and a reset cycle has none (log 10). -/
def Obligations.FaultsExactlyAsNamed : Prop :=
  ∀ (s : State) (f : Fault), step s = .fault f ↔
    refusalOf s.params = none ∧ s.pins.rst = false ∧
      (let contention := s.hOe = true ∧ s.pOe = true
       let busy := s.host.hstate ≠ .idle ∨ s.periph.pstate ≠ .idle ∨ s.pins.wbCyc = true ∧ s.pins.wbStb = true
       let writes := s.pins.rbWe = true ∧ s.pins.rbAdr.getLsbD 2 = false ∧ s.pins.rbSel.getLsbD 0 = true
       let changes := writes ∧ s.pins.rbDatW.extractLsb' 0 3 ≠ s.cfg.cfgDiv
       let clears := writes ∧ s.cfg.cfgEn = true ∧ s.pins.rbDatW.getLsbD 3 = false
       match f with
       | .busContention => contention
       | .unsafeDivisorChange => ¬ contention ∧ changes ∧ busy
       | .unsafeEnableChange => ¬ contention ∧ ¬ (changes ∧ busy) ∧ clears ∧ busy)

/-- Exactly the configurations outside R7, with READ_SEL, with more than one peripheral, or with a responder that is not
stepped per peripheral cycle are refused, by a step and by every command (R285, R322). -/
def Obligations.RefusedConfigurations : Prop :=
  ∀ s : State,
    ((∃ r, step s = .refused r) ↔
      ¬ (0 < s.params.hostWidths.a ∧ 8 ∣ s.params.hostWidths.a ∧ 0 < s.params.hostWidths.d ∧
          8 ∣ s.params.hostWidths.d ∧ s.params.hostWidths.d ≤ 64 ∧
          0 < s.params.periphWidths.a ∧ 8 ∣ s.params.periphWidths.a ∧ 0 < s.params.periphWidths.d ∧
          8 ∣ s.params.periphWidths.d ∧ s.params.periphWidths.d ≤ 64 ∧
          s.params.hostReadSel = false ∧ s.params.peripherals ≤ 1 ∧
          s.params.responderPacing = .perPeripheralCycle)) ∧
    ∀ (i : Instr) (r : Refusal), exec i s = .refused r ↔ step s = .refused r

/-! ### Whole transactions -/

/-- WRITE end to end (R260, R264): from the acceptance tick, with a responder that waits `l` peripheral cycles, the
memory holds up to tick `NA + ND + 3 + l` and from then on is that with the write performed, and `wb_ack` is 1 first in
cycle `(NA + ND + 4 + l) * P + 1`, with `wb_stall = 0`, `wb_dat_r = 0` and the link in step; until then `wb_stall` is 1. -/
def Obligations.WriteTransactionEndToEnd : Prop :=
  ∀ (s : State) (l : Nat), let w := s.params.hostWidths
    s.acceptsFor ((w.na + w.nd + 4 + l) * s.cfg.period + 1) → s.pins.wbWe = true → s.wf →
    s.responderWaits (w.na + w.nd + 3) l →
    (∃ t, reaches ((w.na + w.nd + 4 + l) * s.cfg.period + 1) s t ∧ t.inSync ∧
      t.wbAck = true ∧ t.wbStall = false ∧ t.wbDatR = 0 ∧
      t.mem = s.mem.writeWord (s.pins.addr w) (s.pins.data w) (s.pins.sel w) w.nd) ∧
    ∀ k ≤ (w.na + w.nd + 4 + l) * s.cfg.period, ∃ u, reaches k s u ∧ u.wbAck = false ∧ u.wbStall = true ∧
      u.mem = if k ≤ (w.na + w.nd + 3 + l) * s.cfg.period then s.mem
        else s.mem.writeWord (s.pins.addr w) (s.pins.data w) (s.pins.sel w) w.nd

/-- READ end to end (R261, R264): from the acceptance tick, with a memory responder that waits `l` peripheral cycles,
`wb_ack` is 1 first in cycle `(NA + ND + 3 + l) * P + 1`, with `wb_stall = 0` and the link in step, and `wb_dat_r` is then
the addressed word; memory does not change; until then `wb_stall` is 1. -/
def Obligations.ReadTransactionEndToEnd : Prop :=
  ∀ (s : State) (l : Nat), let w := s.params.hostWidths
    s.acceptsFor ((w.na + w.nd + 3 + l) * s.cfg.period + 1) → s.pins.wbWe = false → s.wf →
    s.responderWaits (w.na + 2) l → (s.pinsAt ((w.na + 2 + l) * s.cfg.period)).rDatR = none →
    (∃ t, reaches ((w.na + w.nd + 3 + l) * s.cfg.period + 1) s t ∧ t.inSync ∧
      t.wbAck = true ∧ t.wbStall = false ∧ t.wbDatR = s.mem.readWord (s.pins.addr w) w.nd ∧ t.mem = s.mem) ∧
    ∀ k ≤ (w.na + w.nd + 3 + l) * s.cfg.period, ∃ u, reaches k s u ∧ u.wbAck = false ∧ u.wbStall = true ∧
      u.mem = s.mem

/-- The write request frame on the wire (R94, R168, R253): from the acceptance tick of a write, the byte both ends sample
at tick `k + 1` is byte `k` of the encoded frame, and the host drives it. -/
def Obligations.WriteFrameOnTheWire : Prop :=
  ∀ s : State, let w := s.params.hostWidths
    let bytes := encodeFrame w (.write (s.pins.addr w) (s.pins.sel w) (s.pins.data w))
    s.acceptsFor (bytes.length * s.cfg.period) → s.pins.wbWe = true →
    ∀ k < bytes.length, ∃ u, reaches ((k + 1) * s.cfg.period) s u ∧ u.strobe = true ∧ u.driver = .host ∧
      some u.bus = bytes[k]?

/-- A responder that never acknowledges (R284): from a cycle in which its request stands, with a harmless undriven bus and no
reset or register-bus write, the machine runs on for any number of cycles with host, peripheral, register file and memory as
they are: the request stays, the host stalls and no completion comes. -/
def Obligations.SilentResponderHangsTheLink : Prop :=
  ∀ (s : State) (n : Nat), refusalOf s.params = none → s.inSync →
    (s.periph.pstate = .writeWishbone ∨ s.periph.pstate = .readWishbone) →
    (∃ b, s.params.busFloat = some b ∧ b ≠ 0x82 ∧ b ≠ 0x83) → quietFor n s.inputs = true →
    (∀ k < n, (s.pinsAt k).rAck = false) →
    ∃ t, reaches n s t ∧ t.host = s.host ∧ t.periph = s.periph ∧ t.cfg = s.cfg ∧ t.mem = s.mem ∧ t.rCyc = true ∧
      t.wbStall = true ∧ t.wbAck = false

/-- The read request and the two responses on the wire (R95, R96, R97, R253, R168, R205). From the acceptance tick of a read the
host drives the bytes of the read request; from the tick at which the responder acknowledges, the peripheral drives the one
byte of a write response, or the bytes of the read response that carries the word presented. Each byte is driven for exactly
one bus period, the bytes follow each other without a gap, both ends sample each at the tick that ends its period, and in
the cycle after the last nobody drives. -/
def Obligations.ReadAndAnswerFramesOnTheWire : Prop :=
  (∀ s : State, let w := s.params.hostWidths
    let bytes := encodeFrame w (.read (s.pins.addr w))
    s.acceptsFor (bytes.length * s.cfg.period + 1) → s.pins.wbWe = false → s.sends .host bytes) ∧
  (∀ s : State, let bytes := encodeFrame s.params.periphWidths .writeAck
    s.answersFor (bytes.length * s.cfg.period + 1) → s.periph.pstate = .writeWishbone → s.sends .periph bytes) ∧
  ∀ s : State, let w := s.params.periphWidths
    let bytes := encodeFrame w (.readAck (lowData w.d s.rDatR))
    s.answersFor (bytes.length * s.cfg.period + 1) → s.periph.pstate = .readWishbone → s.sends .periph bytes
end

