-- ==== Sys2Proof/Laws/State.lean ====
section
/-! SUPPORT. One lemma per field for each update of the state, so that no later proof unfolds a record update. -/

namespace Sys2Proof.Machine

section Edge
variable (s : State) (h : HostRegs) (r : PeriphRegs)

@[simp] theorem State.edge_params : (s.edge h r).params = s.params := rfl
@[simp] theorem State.edge_gen : (s.edge h r).gen = s.gen.next s.params.strobeVariant s.cfg := rfl
@[simp] theorem State.edge_host : (s.edge h r).host = h := rfl
@[simp] theorem State.edge_periph : (s.edge h r).periph = r := rfl
@[simp] theorem State.edge_cfg : (s.edge h r).cfg = s.cfg.next s.pins := rfl
@[simp] theorem State.edge_mem : (s.edge h r).mem = s.memNext := rfl
@[simp] theorem State.edge_inputs : (s.edge h r).inputs = s.inputs.tail := rfl
@[simp] theorem State.edge_draws : (s.edge h r).draws = s.draws + 1 := rfl

end Edge

section EdgeWith
variable (s : State) (b : Byte)

@[simp] theorem State.edgeWith_params : (s.edgeWith b).params = s.params := rfl
@[simp] theorem State.edgeWith_gen : (s.edgeWith b).gen = s.gen.next s.params.strobeVariant s.cfg := rfl
@[simp] theorem State.edgeWith_host : (s.edgeWith b).host = s.hostNext b := rfl
@[simp] theorem State.edgeWith_periph : (s.edgeWith b).periph = s.periphNext b := rfl
@[simp] theorem State.edgeWith_cfg : (s.edgeWith b).cfg = s.cfg.next s.pins := rfl
@[simp] theorem State.edgeWith_mem : (s.edgeWith b).mem = s.memNext := rfl
@[simp] theorem State.edgeWith_inputs : (s.edgeWith b).inputs = s.inputs.tail := rfl
@[simp] theorem State.edgeWith_draws : (s.edgeWith b).draws = s.draws + 1 := rfl

end EdgeWith

section Reset
variable (s : State)

@[simp] theorem State.resetEvent_params : s.resetEvent.params = s.params := rfl
@[simp] theorem State.resetEvent_gen : s.resetEvent.gen = StrobeRegs.reset := rfl
@[simp] theorem State.resetEvent_host : s.resetEvent.host = HostRegs.reset := rfl
@[simp] theorem State.resetEvent_periph : s.resetEvent.periph = PeriphRegs.reset := rfl
@[simp] theorem State.resetEvent_cfg : s.resetEvent.cfg = ConfigRegs.reset s.params := rfl
@[simp] theorem State.resetEvent_mem : s.resetEvent.mem = s.mem := rfl
@[simp] theorem State.resetEvent_inputs : s.resetEvent.inputs = s.inputs.tail := rfl
@[simp] theorem State.resetEvent_draws : s.resetEvent.draws = s.draws + 1 := rfl

@[simp] theorem State.resetRegs_params : s.resetRegs.params = s.params := rfl
@[simp] theorem State.resetRegs_gen : s.resetRegs.gen = StrobeRegs.reset := rfl
@[simp] theorem State.resetRegs_host : s.resetRegs.host = HostRegs.reset := rfl
@[simp] theorem State.resetRegs_periph : s.resetRegs.periph = PeriphRegs.reset := rfl
@[simp] theorem State.resetRegs_cfg : s.resetRegs.cfg = ConfigRegs.reset s.params := rfl
@[simp] theorem State.resetRegs_mem : s.resetRegs.mem = s.mem := rfl
@[simp] theorem State.resetRegs_pins : s.resetRegs.pins = s.pins := rfl

/-- Without reset the outputs show the present registers. -/
theorem State.shown_of_low {s : State} (h : s.pins.rst = false) : s.shown = s := by
  simp [State.shown, h]

/-- In a cycle with reset the outputs show the reset state. -/
theorem State.shown_of_reset {s : State} (h : s.pins.rst = true) : s.shown = s.resetRegs := by
  simp [State.shown, h]

/-- Without reset the output pins carry the signals of the registers. -/
theorem State.outPins_of_low {s : State} (h : s.pins.rst = false) : s.outPins = s.signals := by
  rw [State.outPins, State.shown_of_low h]

/-- In a cycle with reset they carry those of the reset state. -/
theorem State.outPins_of_reset {s : State} (h : s.pins.rst = true) : s.outPins = s.resetRegs.signals := by
  rw [State.outPins, State.shown_of_reset h]

variable (p : Params)

@[simp] theorem State.resetWith_params : (State.resetWith p).params = p := rfl
@[simp] theorem State.resetWith_gen : (State.resetWith p).gen = StrobeRegs.reset := rfl
@[simp] theorem State.resetWith_host : (State.resetWith p).host = HostRegs.reset := rfl
@[simp] theorem State.resetWith_periph : (State.resetWith p).periph = PeriphRegs.reset := rfl
@[simp] theorem State.resetWith_cfg : (State.resetWith p).cfg = ConfigRegs.reset p := rfl
@[simp] theorem State.resetWith_mem : (State.resetWith p).mem = [] := rfl
@[simp] theorem State.resetWith_inputs : (State.resetWith p).inputs = [] := rfl
@[simp] theorem State.resetWith_draws : (State.resetWith p).draws = 0 := rfl

end Reset

section Sides
variable (s : State)

@[simp] theorem State.hostSide_params : s.hostSide.params = s.params := rfl
@[simp] theorem State.hostSide_gen : s.hostSide.gen = s.gen := rfl
@[simp] theorem State.hostSide_host : s.hostSide.host = s.host := rfl
@[simp] theorem State.hostSide_cfg : s.hostSide.cfg = s.cfg := rfl
@[simp] theorem State.hostSide_strobe : s.hostSide.strobe = s.strobe := rfl

variable (h : HostSide) (p : Pins) (b : Byte)

@[simp] theorem HostSide.edge_params : (h.edge p b).params = h.params := rfl
@[simp] theorem HostSide.edge_gen : (h.edge p b).gen = h.gen.next h.params.strobeVariant h.cfg := rfl
@[simp] theorem HostSide.edge_host : (h.edge p b).host = h.host.next h.params.hostWidths h.strobe p b := rfl
@[simp] theorem HostSide.edge_cfg : (h.edge p b).cfg = h.cfg.next p := rfl

variable (w : Widths) (ack : Bool) (q : Data) (r : PeriphRegs)

@[simp] theorem PeriphRegs.advance_true : r.advance w true b ack q = r.next w b ack q := rfl
@[simp] theorem PeriphRegs.advance_false : r.advance w false b ack q = r := rfl

end Sides

/-- The pins a cycle leaves for the next one. -/
@[simp] theorem State.edge_pins (s : State) (h : HostRegs) (r : PeriphRegs) : (s.edge h r).pins = s.nextPins := rfl

@[simp] theorem State.edgeWith_pins (s : State) (b : Byte) : (s.edgeWith b).pins = s.nextPins := rfl

end Sys2Proof.Machine
end

