-- ==== Sys2Proof/Laws/Cycle.lean ====
section
/-! SUPPORT. What one cycle can do, said once: the outcome of `cycle`, and `exec` and `step` as cycles. Later proofs
cite these and do not unfold `exec` or `step`. -/

namespace Sys2Proof.Machine

/-- The inversion lemma of a cycle that goes on: it is the reset event, or the ordinary outcome of a live cycle. -/
theorem State.cycle_next {s t u : State} (h : s.cycle t = .next u) :
    refusalOf s.params = none ∧
      ((s.pins.rst = true ∧ u = s.resetEvent) ∨ (s.pins.rst = false ∧ s.stop? = none ∧ u = t)) := by
  unfold State.cycle at h
  split at h
  · cases h
  · rename_i hp
    refine ⟨hp, ?_⟩
    split at h
    · rename_i hr
      cases h
      exact .inl ⟨hr, rfl⟩
    · rename_i hr
      split at h
      · cases h
      · rename_i hs
        cases h
        exact .inr ⟨by simpa using hr, hs, rfl⟩

/-- A live cycle has its ordinary outcome. -/
theorem State.cycle_live {s : State} (h : s.live) (t : State) : s.cycle t = .next t := by
  obtain ⟨hp, hr, hs⟩ := h
  simp [State.cycle, hp, hr, hs]

/-- A reset cycle of a configuration that is run is the reset event, whatever else the cycle would do. -/
theorem State.cycle_reset {s : State} (hp : refusalOf s.params = none) (hr : s.pins.rst = true) (t : State) :
    s.cycle t = .next s.resetEvent := by
  simp [State.cycle, hp, hr]

/-- A cycle faults exactly when the configuration is run, reset is low and a model-level fault holds. -/
theorem State.cycle_fault_iff (s t : State) (f : Fault) :
    s.cycle t = .fault f ↔ refusalOf s.params = none ∧ s.pins.rst = false ∧ s.stop? = some f := by
  unfold State.cycle
  split
  · simp_all
  · split
    · simp_all
    · split <;> simp_all

/-- A cycle is refused exactly when the configuration is. -/
theorem State.cycle_refused_iff (s t : State) (r : Refusal) :
    s.cycle t = .refused r ↔ refusalOf s.params = some r := by
  unfold State.cycle
  split
  · simp_all
  · split
    · simp_all
    · split <;> simp_all

/-! ### The codec -/

@[simp] theorem decodeByte_byte (i : Instr) : decodeByte i.byte = some i := by cases i <;> rfl

theorem decodeByte_eq_some {b : Byte} {i : Instr} : decodeByte b = some i ↔ b = i.byte := by
  constructor
  · intro h
    unfold decodeByte at h
    repeat' split at h
    all_goals first | (cases h; assumption) | cases h
  · rintro rfl
    exact decodeByte_byte i

/-! ### Listening controllers -/

/-- What a listening peripheral does with a request byte. -/
theorem PeriphRegs.next_idle {r : PeriphRegs} (h : r.pstate = .idle) (w : Widths) (b : Byte) (ack : Bool)
    (q : Data) : r.next w b ack q = r.stepIdle w b := by
  simp [PeriphRegs.next, h]

@[simp] theorem PeriphRegs.stepIdle_read (r : PeriphRegs) (w : Widths) :
    r.stepIdle w (Instr.byte .read) = r.openFrame w .readAddr := rfl

@[simp] theorem PeriphRegs.stepIdle_write (r : PeriphRegs) (w : Widths) :
    r.stepIdle w (Instr.byte .write) = r.openFrame w .writeAddr := rfl

/-- A listening peripheral hears a byte by the rule of p.IDLE. -/
theorem State.periphNext_of_listens {s : State} (h : s.periphListens = true) (b : Byte) :
    s.periphNext b = s.periph.stepIdle s.params.periphWidths b := by
  simp only [State.periphListens, Bool.and_eq_true, beq_iff_eq] at h
  simp [State.periphNext, h.1, PeriphRegs.next_idle h.2]

/-- A host that awaits READ_ACK takes it. -/
theorem State.hostNext_of_awaitsRead {s : State} (h : s.hostAwaitsRead = true) :
    s.hostNext (Instr.byte .readAck) = s.host.takeReadAck s.params.hostWidths := by
  simp only [State.hostAwaitsRead, Bool.and_eq_true, beq_iff_eq] at h
  simp [State.hostNext, HostRegs.next, HostRegs.atTick, h, isAck, encodeAck]

/-- A host that awaits WRITE_ACK takes it. -/
theorem State.hostNext_of_awaitsWrite {s : State} (h : s.hostAwaitsWrite = true) :
    s.hostNext (Instr.byte .writeAck) = s.host.takeWriteAck := by
  simp only [State.hostAwaitsWrite, Bool.and_eq_true, beq_iff_eq] at h
  simp [State.hostNext, HostRegs.next, HostRegs.atTick, h, isAck, encodeAck]

/-! ### `exec` and `step` as cycles -/

/-- Executing a command is the cycle in which both ends sample its byte: the meaning of each command agrees with the
byte-level rules of the states. -/
theorem exec_eq_cycle (i : Instr) (s : State) : exec i s = s.cycle (s.edgeWith i.byte) := by
  cases i with
  | read =>
    simp only [exec, execRead]
    split
    · rename_i h; rw [State.edgeWith, State.periphNext_of_listens h, PeriphRegs.stepIdle_read]
    · rfl
  | write =>
    simp only [exec, execWrite]
    split
    · rename_i h; rw [State.edgeWith, State.periphNext_of_listens h, PeriphRegs.stepIdle_write]
    · rfl
  | readAck =>
    simp only [exec, execReadAck]
    split
    · rename_i h; rw [State.edgeWith, State.hostNext_of_awaitsRead h]
    · rfl
  | writeAck =>
    simp only [exec, execWriteAck]
    split
    · rename_i h; rw [State.edgeWith, State.hostNext_of_awaitsWrite h]
    · rfl

/-- A step is the cycle in which both ends sample the byte on the bus, command or not. -/
theorem step_eq_cycle (s : State) : step s = s.cycle (s.edgeWith s.bus) := by
  unfold step
  split
  · rename_i i h
    rw [exec_eq_cycle]
    unfold State.command? at h
    split at h
    · rename_i j hj
      split at h
      · cases h
        rw [decodeByte_eq_some.mp hj]
      · cases h
    · cases h
  · rfl

/-- The inversion lemma of a step: from `step s = next u`, `u` is the reset event, or the clock edge of a live cycle. -/
theorem step_next {s u : State} (h : step s = .next u) :
    refusalOf s.params = none ∧
      ((s.pins.rst = true ∧ u = s.resetEvent) ∨
        (s.pins.rst = false ∧ s.stop? = none ∧ u = s.edgeWith s.bus)) :=
  State.cycle_next (step_eq_cycle s ▸ h)

/-- A live cycle steps to its clock edge. -/
theorem step_live {s : State} (h : s.live) : step s = .next (s.edgeWith s.bus) := by
  rw [step_eq_cycle, State.cycle_live h]

/-- A live cycle executes a command by the clock edge with its byte. -/
theorem exec_live {s : State} (h : s.live) (i : Instr) : exec i s = .next (s.edgeWith i.byte) := by
  rw [exec_eq_cycle, State.cycle_live h]

/-! ### Runs -/

@[simp] theorem reaches_zero (s t : State) : reaches 0 s t ↔ s = t := by
  constructor
  · intro h; cases h; rfl
  · rintro rfl; rfl

theorem run_succ_next {s u : State} (h : step s = .next u) (k : Nat) :
    Host.Core.run core (k + 1) s = Host.Core.run core k u := by
  have h' : core.step s = .next u := h
  simp only [Host.Core.run, h']

theorem run_succ_fault {s : State} {f : Fault} (h : step s = .fault f) (k : Nat) :
    Host.Core.run core (k + 1) s = .fault f := by
  have h' : core.step s = .fault f := h
  simp only [Host.Core.run, h']

theorem run_succ_refused {s : State} {r : Refusal} (h : step s = .refused r) (k : Nat) :
    Host.Core.run core (k + 1) s = .refused r := by
  have h' : core.step s = .refused r := h
  simp only [Host.Core.run, h']

/-- A run of `k + 1` cycles is a step and a run of `k`. -/
theorem reaches_succ (k : Nat) (s t : State) : reaches (k + 1) s t ↔ ∃ u, step s = .next u ∧ reaches k u t := by
  unfold reaches
  cases h : step s with
  | next u => rw [run_succ_next h]; simp
  | fault r => rw [run_succ_fault h]; simp
  | refused r => rw [run_succ_refused h]; simp

/-- Runs compose. -/
theorem reaches_add {m n : Nat} {s t u : State} (h₁ : reaches m s t) (h₂ : reaches n t u) : reaches (m + n) s u := by
  induction m generalizing s with
  | zero => cases (reaches_zero s t).mp h₁; simpa using h₂
  | succ m ih =>
    obtain ⟨v, hv, hr⟩ := (reaches_succ m s t).mp h₁
    rw [Nat.succ_add]
    exact (reaches_succ _ _ _).mpr ⟨v, hv, ih hr⟩

end Sys2Proof.Machine
end

