-- ==== Sys2Proof/Laws/Fsm.lean ====
section
/-! SUPPORT. One equation per FSM state for each controller's transition function, and the strobe generator's two
basic facts. -/

namespace Sys2Proof.Machine

/-! ### Host -/

section HostFsm
variable {h : HostRegs} (w : Widths) (tick : Bool) (p : Pins) (b : Byte)

theorem HostRegs.next_idle (e : h.hstate = .idle) : h.next w tick p b = h.stepIdle w tick p := by
  simp [HostRegs.next, e]

theorem HostRegs.next_writeCmd (e : h.hstate = .writeCmd) :
    h.next w tick p b = if tick then h.startAddr w .writeAddr else h := by
  simp [HostRegs.next, HostRegs.atTick, e]

theorem HostRegs.next_readCmd (e : h.hstate = .readCmd) :
    h.next w tick p b = if tick then h.startAddr w .readAddr else h := by
  simp [HostRegs.next, HostRegs.atTick, e]

theorem HostRegs.next_writeAddr (e : h.hstate = .writeAddr) :
    h.next w tick p b = if tick then h.stepWriteAddr else h := by
  simp [HostRegs.next, HostRegs.atTick, e]

theorem HostRegs.next_readAddr (e : h.hstate = .readAddr) :
    h.next w tick p b = if tick then h.stepReadAddr else h := by
  simp [HostRegs.next, HostRegs.atTick, e]

theorem HostRegs.next_writeSel (e : h.hstate = .writeSel) :
    h.next w tick p b = if tick then h.stepWriteSel w else h := by
  simp [HostRegs.next, HostRegs.atTick, e]

theorem HostRegs.next_writeData (e : h.hstate = .writeData) :
    h.next w tick p b = if tick then h.stepWriteData else h := by
  simp [HostRegs.next, HostRegs.atTick, e]

theorem HostRegs.next_writeAck (e : h.hstate = .writeAck) :
    h.next w tick p b = if tick then (if isAck b .write then h.takeWriteAck else h) else h := by
  simp [HostRegs.next, HostRegs.atTick, e]

theorem HostRegs.next_readAck (e : h.hstate = .readAck) :
    h.next w tick p b = if tick then (if isAck b .read then h.takeReadAck w else h) else h := by
  simp [HostRegs.next, HostRegs.atTick, e]

theorem HostRegs.next_readData (e : h.hstate = .readData) :
    h.next w tick p b = if tick then h.stepReadData w b else h := by
  simp [HostRegs.next, HostRegs.atTick, e]

theorem HostRegs.next_wishboneAck (e : h.hstate = .wishboneAck) : h.next w tick p b = h.finish := by
  simp [HostRegs.next, e]

/-- Between ticks a busy host holds (R151). -/
theorem HostRegs.next_hold (e₁ : h.hstate ≠ .idle) (e₂ : h.hstate ≠ .wishboneAck) : h.next w false p b = h := by
  unfold HostRegs.next
  split <;> simp_all

/-- A busy host does not look at the wide-bus pins (R166). -/
theorem HostRegs.next_pins_irrelevant (e : h.hstate ≠ .idle) (q : Pins) :
    h.next w tick p b = h.next w tick q b := by
  unfold HostRegs.next
  split <;> simp_all

end HostFsm

/-! ### Peripheral -/

section PeriphFsm
variable {r : PeriphRegs} (w : Widths) (b : Byte) (ack : Bool) (q : Data)

theorem PeriphRegs.next_writeAddr (e : r.pstate = .writeAddr) :
    r.next w b ack q = r.stepAddr w .writeSel b := by
  simp [PeriphRegs.next, e]

theorem PeriphRegs.next_readAddr (e : r.pstate = .readAddr) :
    r.next w b ack q = r.stepAddr w .readWishbone b := by
  simp [PeriphRegs.next, e]

theorem PeriphRegs.next_writeSel (e : r.pstate = .writeSel) : r.next w b ack q = r.stepWriteSel w b := by
  simp [PeriphRegs.next, e]

theorem PeriphRegs.next_writeData (e : r.pstate = .writeData) : r.next w b ack q = r.stepWriteData w b := by
  simp [PeriphRegs.next, e]

theorem PeriphRegs.next_writeWishbone (e : r.pstate = .writeWishbone) :
    r.next w b ack q = if ack then r.writeAcked else r := by
  simp [PeriphRegs.next, e]

theorem PeriphRegs.next_writeAck (e : r.pstate = .writeAck) : r.next w b ack q = r.close := by
  simp [PeriphRegs.next, e]

theorem PeriphRegs.next_readWishbone (e : r.pstate = .readWishbone) :
    r.next w b ack q = if ack then r.readAcked w q else r := by
  simp [PeriphRegs.next, e]

theorem PeriphRegs.next_readAck (e : r.pstate = .readAck) : r.next w b ack q = r.startData w := by
  simp [PeriphRegs.next, e]

theorem PeriphRegs.next_readData (e : r.pstate = .readData) : r.next w b ack q = r.stepReadData := by
  simp [PeriphRegs.next, e]

end PeriphFsm

/-- Between ticks the peripheral holds (43_peripheral.md R191). -/
theorem State.periphNext_hold {s : State} (h : s.pAdv = false) (b : Byte) : s.periphNext b = s.periph := by
  simp [State.periphNext, h]

/-- Without a tick there is no peripheral cycle. -/
theorem State.pAdv_of_not_strobe {s : State} (h : s.strobe = false) : s.pAdv = false := by
  simp [State.pAdv, h]

/-- Between ticks the memory holds (45 R257 (a)). -/
theorem State.memNext_hold {s : State} (h : s.pAdv = false) : s.memNext = s.mem := by
  simp [State.memNext, h]

/-! ### Strobe generator -/

/-- A strobe is a pulse. -/
theorem StrobeRegs.raw_of_strobe {p : Params} {g : StrobeRegs} {c : ConfigRegs} (h : g.strobe p c = true) :
    g.raw p.strobeVariant c = true := by
  simp only [StrobeRegs.strobe, Bool.and_eq_true] at h
  exact h.1

/-- The driver of a cycle in which only one end drives is not "both". -/
theorem State.driver_both {s : State} : s.driver = .both ↔ s.hOe = true ∧ s.pOe = true := by
  unfold State.driver
  cases s.hOe <;> cases s.pOe <;> simp

end Sys2Proof.Machine
end

