-- ==== Sys2Proof/Laws/Memory.lean ====
section
/-! SUPPORT. The laws of the responder's memory: every operation keeps the canonical form, a read after a write to the
same place gives the value written, and a write leaves every other place alone. -/

namespace Sys2Proof.Machine

/-! ### Bytes -/

@[simp] theorem Memory.readByte_nil (key : Nat) : Memory.readByte [] key = Memory.unlisted := rfl

theorem Memory.readByte_cons (k : Nat) (b : Byte) (rest : Memory) (key : Nat) :
    Memory.readByte ((k, b) :: rest) key = if k = key then b else Memory.readByte rest key := rfl

theorem Memory.above_cons (n k : Nat) (b : Byte) (rest : Memory) :
    Memory.above n ((k, b) :: rest) = true ↔ n < k ∧ Memory.above n rest = true := by
  simp [Memory.above]

theorem Memory.wf_cons (k : Nat) (b : Byte) (rest : Memory) :
    Memory.wf ((k, b) :: rest) = true ↔
      b ≠ Memory.unlisted ∧ Memory.above k rest = true ∧ Memory.wf rest = true := by
  simp [Memory.wf, and_assoc]

/-- A bound below the keys may be lowered. -/
theorem Memory.above_mono {n k : Nat} (hk : n ≤ k) {m : Memory} (h : m.above k = true) : m.above n = true := by
  induction m with
  | nil => rfl
  | cons c rest ih =>
    obtain ⟨h₁, h₂⟩ := (Memory.above_cons ..).mp h
    exact (Memory.above_cons ..).mpr ⟨by omega, ih h₂⟩

/-- A key not above the bound is not listed. -/
theorem Memory.readByte_of_above {n key : Nat} (hk : key ≤ n) {m : Memory} (h : m.above n = true) :
    m.readByte key = Memory.unlisted := by
  induction m with
  | nil => rfl
  | cons c rest ih =>
    obtain ⟨k, b⟩ := c
    obtain ⟨h₁, h₂⟩ := (Memory.above_cons ..).mp h
    rw [Memory.readByte_cons, if_neg (by omega), ih h₂]

theorem Memory.above_writeByte {n key : Nat} (hk : n < key) (b : Byte) {m : Memory} (h : m.above n = true) :
    (m.writeByte key b).above n = true := by
  induction m with
  | nil =>
    unfold Memory.writeByte
    split
    · rfl
    · simp [Memory.above, hk]
  | cons c rest ih =>
    obtain ⟨k, d⟩ := c
    obtain ⟨h₁, h₂⟩ := (Memory.above_cons ..).mp h
    unfold Memory.writeByte
    split
    · split
      · exact h
      · simp [Memory.above, hk, h₁, h₂]
    · split
      · split
        · exact h₂
        · simp [Memory.above, hk, h₂]
      · simp [Memory.above, h₁, ih h₂]

/-- A write keeps the canonical form. -/
theorem Memory.wf_writeByte (key : Nat) (b : Byte) {m : Memory} (h : m.wf = true) :
    (m.writeByte key b).wf = true := by
  induction m with
  | nil =>
    unfold Memory.writeByte
    split
    · rfl
    · rename_i hb
      simp [Memory.wf, Memory.above, hb]
  | cons c rest ih =>
    obtain ⟨k, d⟩ := c
    obtain ⟨h₁, h₂, h₃⟩ := (Memory.wf_cons ..).mp h
    unfold Memory.writeByte
    split
    · rename_i hk
      split
      · exact h
      · rename_i hb
        exact (Memory.wf_cons ..).mpr
          ⟨hb, (Memory.above_cons ..).mpr ⟨hk, Memory.above_mono (Nat.le_of_lt hk) h₂⟩, h⟩
    · split
      · rename_i _ hk
        split
        · exact h₃
        · rename_i hb
          exact (Memory.wf_cons ..).mpr ⟨hb, hk ▸ h₂, h₃⟩
      · rename_i h₄ h₅
        exact (Memory.wf_cons ..).mpr ⟨h₁, Memory.above_writeByte (by omega) b h₂, ih h₃⟩

/-- Read after write: the key written reads as the byte, every other key as before. -/
theorem Memory.readByte_writeByte (key : Nat) (b : Byte) (at' : Nat) {m : Memory} (h : m.wf = true) :
    (m.writeByte key b).readByte at' = if at' = key then b else m.readByte at' := by
  induction m with
  | nil =>
    unfold Memory.writeByte
    split
    · rename_i hb
      simp [hb]
    · simp only [Memory.readByte_cons, Memory.readByte_nil, eq_comm]
  | cons c rest ih =>
    obtain ⟨k, d⟩ := c
    obtain ⟨h₁, h₂, h₃⟩ := (Memory.wf_cons ..).mp h
    unfold Memory.writeByte
    split
    · rename_i hk
      split
      · rename_i hb
        split
        · rename_i ha
          rw [Memory.readByte_cons, if_neg (by omega), Memory.readByte_of_above (by omega) h₂, hb]
        · rfl
      · rw [Memory.readByte_cons]
        simp only [eq_comm]
    · split
      · rename_i _ hk
        subst hk
        split
        · rename_i hb
          split
          · rename_i ha
            rw [ha, Memory.readByte_of_above (Nat.le_refl _) h₂, hb]
          · rename_i ha
            rw [Memory.readByte_cons, if_neg (fun e => ha e.symm)]
        · simp only [Memory.readByte_cons]
          by_cases ha : at' = key
          · simp [ha]
          · rw [if_neg (fun e : key = at' => ha e.symm), if_neg ha, if_neg (fun e : key = at' => ha e.symm)]
      · rename_i h₄ h₅
        rw [Memory.readByte_cons, Memory.readByte_cons, ih h₃]
        by_cases ha : k = at'
        · subst ha
          rw [if_pos rfl, if_neg (fun e : k = key => h₅ e.symm), if_pos rfl]
        · simp [ha]

/-- A write to a key of the address space keeps the listed cells in it. -/
theorem Memory.within_writeByte {w : Widths} {key : Nat} (hk : key / 8 < 2 ^ w.a) (hl : key % 8 < w.nd) (b : Byte)
    {m : Memory} (h : m.within w = true) : (m.writeByte key b).within w = true := by
  induction m with
  | nil =>
    unfold Memory.writeByte
    split <;> simp [Memory.within, hk, hl]
  | cons c rest ih =>
    obtain ⟨k, d⟩ := c
    simp only [Memory.within, Bool.and_eq_true, decide_eq_true_eq] at h
    unfold Memory.writeByte
    split
    · split <;> simp [Memory.within, hk, hl, h]
    · split
      · split <;> simp [Memory.within, hk, hl, h]
      · simp [Memory.within, h, ih h.2]

/-! ### Words -/

/-- Different lanes or different addresses have different keys. -/
theorem byteKey_inj {a c : Nat} {i j : Nat} (hi : i < 8) (hj : j < 8) :
    byteKey a i = byteKey c j ↔ a = c ∧ i = j := by
  unfold byteKey
  omega

/-- A word write keeps the canonical form. -/
theorem Memory.wf_writeWord (a : Nat) (v : Data) (sel : Select) (n : Nat) {m : Memory} (h : m.wf = true) :
    (m.writeWord a v sel n).wf = true := by
  induction n with
  | zero => exact h
  | succ n ih =>
    unfold Memory.writeWord
    split
    · exact Memory.wf_writeByte _ _ ih
    · exact ih

/-- A word write at an address of the address space keeps the listed cells in it. -/
theorem Memory.within_writeWord {w : Widths} {a : Nat} (ha : a < 2 ^ w.a) (v : Data) (sel : Select) {n : Nat}
    (hn : n ≤ w.nd) (h8 : n ≤ 8) {m : Memory} (h : m.within w = true) :
    (m.writeWord a v sel n).within w = true := by
  induction n with
  | zero => exact h
  | succ n ih =>
    have ih := ih (by omega) (by omega)
    unfold Memory.writeWord
    split
    · apply Memory.within_writeByte _ _ _ ih
      · unfold byteKey; omega
      · unfold byteKey; omega
    · exact ih

/-- What every byte reads as after a word write: the written lane if it is a selected lane of the word, as before
otherwise. -/
theorem Memory.readByte_writeWord (a : Nat) (v : Data) (sel : Select) (n : Nat) (key : Nat) {m : Memory}
    (h : m.wf = true) :
    (m.writeWord a v sel n).readByte key =
      if byteKey a 0 ≤ key ∧ key < byteKey a n ∧ sel.getLsbD (key - byteKey a 0) then laneByte v (key - byteKey a 0)
      else m.readByte key := by
  induction n with
  | zero =>
    rw [if_neg (by unfold byteKey; omega)]
    rfl
  | succ n ih =>
    unfold Memory.writeWord
    by_cases hs : sel.getLsbD n = true
    · rw [if_pos hs, Memory.readByte_writeByte _ _ _ (Memory.wf_writeWord a v sel n h), ih]
      by_cases hk : key = byteKey a n
      · subst hk
        have h₁ : byteKey a n - byteKey a 0 = n := by unfold byteKey; omega
        rw [if_pos rfl, h₁, if_pos ⟨by unfold byteKey; omega, by unfold byteKey; omega, hs⟩]
      · rw [if_neg hk]
        have : (byteKey a 0 ≤ key ∧ key < byteKey a n ∧ sel.getLsbD (key - byteKey a 0) = true) ↔
            (byteKey a 0 ≤ key ∧ key < byteKey a (n + 1) ∧ sel.getLsbD (key - byteKey a 0) = true) := by
          unfold byteKey at hk ⊢
          constructor <;> rintro ⟨h₁, h₂, h₃⟩ <;> exact ⟨by omega, by omega, h₃⟩
        simp only [this]
    · rw [if_neg hs, ih]
      have : (byteKey a 0 ≤ key ∧ key < byteKey a n ∧ sel.getLsbD (key - byteKey a 0) = true) ↔
          (byteKey a 0 ≤ key ∧ key < byteKey a (n + 1) ∧ sel.getLsbD (key - byteKey a 0) = true) := by
        constructor
        · rintro ⟨h₁, h₂, h₃⟩
          exact ⟨h₁, by unfold byteKey at *; omega, h₃⟩
        · rintro ⟨h₁, h₂, h₃⟩
          refine ⟨h₁, ?_, h₃⟩
          by_contra hc
          apply hs
          have : key - byteKey a 0 = n := by unfold byteKey at *; omega
          rw [← this]
          exact h₃
      simp only [this]

/-- The same by address and lane: a word write changes exactly the selected lanes of its word. -/
theorem Memory.readByte_writeWord_lane (a : Nat) (v : Data) (sel : Select) {n : Nat} (hn : n ≤ 8) (key : Nat)
    {m : Memory} (h : m.wf = true) :
    (m.writeWord a v sel n).readByte key =
      if key / 8 = a ∧ key % 8 < n ∧ sel.getLsbD (key % 8) then laneByte v (key % 8) else m.readByte key := by
  rw [Memory.readByte_writeWord a v sel n key h]
  by_cases hq : key / 8 = a
  · have hk : key - byteKey a 0 = key % 8 := by unfold byteKey; omega
    have h₁ : byteKey a 0 ≤ key := by unfold byteKey; omega
    have h₂ : key < byteKey a n ↔ key % 8 < n := by unfold byteKey; omega
    simp only [hk, h₁, h₂, hq, true_and]
  · rw [if_neg (by unfold byteKey; omega), if_neg (fun hc => hq hc.1)]

/-- A lane is a slice of eight bits. -/
theorem laneByte_eq_extract (v : Data) (i : Nat) : laneByte v i = v.extractLsb' (8 * i) 8 := by
  apply BitVec.eq_of_getLsbD_eq
  intro j hj
  simp [laneByte, hj]

/-- Lane `i` of a word read is the byte at its key; the lanes not read are 0. -/
theorem Memory.laneByte_readWord (m : Memory) (a : Nat) (n i : Nat) (hn : n ≤ 8) :
    laneByte (m.readWord a n) i = if i < n then m.readByte (byteKey a i) else 0 := by
  induction n with
  | zero =>
    simp [Memory.readWord, laneByte]
  | succ n ih =>
    have ih := ih (by omega)
    unfold Memory.readWord
    by_cases hi : i = n
    · subst hi
      rw [if_pos (by omega)]
      rw [if_neg (by omega)] at ih
      apply BitVec.eq_of_getLsbD_eq
      intro j hj
      have h := congrArg (fun b => b.getLsbD j) ih
      simp only [laneByte, BitVec.getLsbD_setWidth, BitVec.getLsbD_ushiftRight, BitVec.getLsbD_or,
        BitVec.getLsbD_shiftLeft] at h ⊢
      simp only [hj, decide_true, Bool.true_and] at h ⊢
      rw [h]
      have : 8 * i + j < 64 := by omega
      have h2 : 8 * i + j - 8 * i = j := by omega
      simp [this, h2, show j < 64 by omega]
    · by_cases hlt : i < n
      · rw [if_pos hlt] at ih
        rw [if_pos (by omega), ← ih]
        apply BitVec.eq_of_getLsbD_eq
        intro j hj
        simp only [laneByte, BitVec.getLsbD_setWidth, BitVec.getLsbD_ushiftRight, BitVec.getLsbD_or,
          BitVec.getLsbD_shiftLeft]
        simp [hj, show 8 * i + j < 8 * n by omega]
      · rw [if_neg hlt] at ih
        rw [if_neg (by omega), ← ih]
        apply BitVec.eq_of_getLsbD_eq
        intro j hj
        simp only [laneByte, BitVec.getLsbD_setWidth, BitVec.getLsbD_ushiftRight, BitVec.getLsbD_or,
          BitVec.getLsbD_shiftLeft]
        have : ¬ (8 * i + j - 8 * n < 8) := by omega
        simp [hj, BitVec.getLsbD_of_ge _ _ (Nat.le_of_not_lt this)]

/-- A data word is its eight lanes. -/
theorem data_ext_lanes {u v : Data} (h : ∀ i < 8, laneByte u i = laneByte v i) : u = v := by
  apply BitVec.eq_of_getLsbD_eq
  intro j hj
  have := congrArg (fun b => b.getLsbD (j % 8)) (h (j / 8) (by omega))
  simp only [laneByte, BitVec.getLsbD_setWidth, BitVec.getLsbD_ushiftRight] at this
  have h1 : 8 * (j / 8) + j % 8 = j := by omega
  rw [h1] at this
  simpa [Nat.mod_lt] using this

end Sys2Proof.Machine
end

