-- ==== Sys2Proof/Laws/OneSide.lean ====
section
/-! SUPPORT. The composed system is the two sides alone with `h_in = p_in = bus` and `p_adv = strobe` (45 R251, R252,
R255): what each side does in a step of the link, it does alone with those inputs. -/

namespace Sys2Proof.Machine

/-- A peripheral between its cycles holds, whatever its other inputs are (43_peripheral.md R191). -/
theorem PeriphRegs.step_hold (w : Widths) (b : Byte) (ack : Bool) (q : Data) (r : PeriphRegs) :
    r.step w false false b ack q = r := rfl

/-- The clock edge of the host side is that of the link. -/
theorem State.edgeWith_hostSide (s : State) (b : Byte) : (s.edgeWith b).hostSide = s.hostSide.edge s.pins b := rfl

/-- A hazard violation of the host side is one of the link. -/
theorem State.hostSide_stop? {s : State} (h : s.stop? = none) : s.hostSide.stop? s.pins = none := by
  unfold State.stop? at h
  unfold HostSide.stop? HostSide.atRest
  unfold State.atRest at h
  split at h
  · cases h
  · split at h
    · cases h
    · split at h
      · cases h
      · rename_i hd he
        rw [if_neg, if_neg] <;> simp_all

/-- The host side of a step, alone with the byte on the bus. -/
theorem step_hostSide {s t : State} (h : step s = .next t) : s.hostSide.step s.pins s.bus = .next t.hostSide := by
  obtain ⟨hp, ⟨hr, rfl⟩ | ⟨hr, hs, rfl⟩⟩ := step_next h
  · simp only [HostSide.step, State.hostSide_params, hp, hr, if_true]
    rfl
  · simp only [HostSide.step, State.hostSide_params, hp, hr, State.hostSide_stop? hs, State.edgeWith_hostSide]
    rfl

/-- The peripheral side of a step, alone with the byte on the bus and `p_adv` of the link. -/
theorem step_periphSide {s t : State} (h : step s = .next t) :
    t.periph = s.periph.step s.params.periphWidths s.pins.rst s.pAdv s.bus s.pins.rAck s.rDatR := by
  obtain ⟨-, ⟨hr, rfl⟩ | ⟨hr, -, rfl⟩⟩ := step_next h
  · rw [PeriphRegs.step, if_pos hr, State.resetEvent_periph]
  · rw [PeriphRegs.step, hr]
    rfl

end Sys2Proof.Machine
end

