-- ==== Sys2Proof/Laws/Operands.lean ====
section
/-! SUPPORT. The laws of the operand forms: widths, bounds, and the bits of truncation, shift and insertion. -/

namespace Sys2Proof.Machine

/-! ### Widths -/

/-- What R7 says of the widths, in bytes. -/
theorem widths_wf {w : Widths} (h : w.wf = true) :
    w.a = 8 * w.na ∧ 0 < w.na ∧ w.d = 8 * w.nd ∧ 0 < w.nd ∧ w.nd ≤ 8 := by
  simp only [Widths.wf, Bool.and_eq_true, decide_eq_true_eq, beq_iff_eq] at h
  unfold Widths.na Widths.nd
  omega

/-- The configurations that are run. -/
theorem refusalOf_none {p : Params} :
    refusalOf p = none ↔ p.hostWidths.wf = true ∧ p.periphWidths.wf = true ∧ p.hostReadSel = false ∧
      p.peripherals ≤ 1 ∧ p.responderPacing = .perPeripheralCycle := by
  unfold refusalOf
  cases h₁ : p.hostWidths.wf <;> cases h₂ : p.periphWidths.wf <;> cases h₃ : p.hostReadSel <;>
    cases h₄ : p.responderPacing <;> by_cases h₅ : 1 < p.peripherals <;> simp [h₅]
  omega

/-! ### Values below a power of two -/

/-- A data word fits `d` bits exactly when its higher bits are 0. -/
theorem toNat_lt_iff {n : Nat} (v : BitVec n) (d : Nat) :
    v.toNat < 2 ^ d ↔ ∀ i, d ≤ i → v.getLsbD i = false := by
  constructor
  · intro h i hi
    rw [← BitVec.testBit_toNat]
    exact Nat.testBit_lt_two_pow (Nat.lt_of_lt_of_le h (Nat.pow_le_pow_right (by omega) hi))
  · intro h
    apply Nat.lt_pow_two_of_testBit
    intro i hi
    rw [BitVec.testBit_toNat]
    exact h i hi

/-! ### Truncation -/

@[simp] theorem getLsbD_lowData (d : Nat) (v : Data) (i : Nat) :
    (lowData d v).getLsbD i = (decide (i < 64) && (decide (i < d) && v.getLsbD i)) := by
  simp [lowData, BitVec.getLsbD_setWidth]

@[simp] theorem getLsbD_lowSelect (n : Nat) (v : Select) (i : Nat) :
    (lowSelect n v).getLsbD i = (decide (i < 8) && (decide (i < n) && v.getLsbD i)) := by
  simp [lowSelect, BitVec.getLsbD_setWidth]

theorem lowData_lt (d : Nat) (v : Data) : (lowData d v).toNat < 2 ^ d := by
  rw [toNat_lt_iff]
  intro i hi
  simp [show ¬ i < d by omega]

theorem lowSelect_lt (n : Nat) (v : Select) : (lowSelect n v).toNat < 2 ^ n := by
  rw [toNat_lt_iff]
  intro i hi
  simp [show ¬ i < n by omega]

/-- A word that fits is not truncated. -/
theorem lowData_of_lt {d : Nat} {v : Data} (h : v.toNat < 2 ^ d) : lowData d v = v := by
  apply BitVec.eq_of_getLsbD_eq
  intro i hi
  rw [getLsbD_lowData]
  by_cases hd : i < d
  · simp [hi, hd]
  · simp [hd, (toNat_lt_iff v d).mp h i (by omega)]

/-- A mask that fits is not truncated. -/
theorem lowSelect_of_lt {n : Nat} {v : Select} (h : v.toNat < 2 ^ n) : lowSelect n v = v := by
  apply BitVec.eq_of_getLsbD_eq
  intro i hi
  rw [getLsbD_lowSelect]
  by_cases hn : i < n
  · simp [hi, hn]
  · simp [hn, (toNat_lt_iff v n).mp h i (by omega)]

/-! ### Shifts and insertions -/

@[simp] theorem getLsbD_dataShift (v : Data) (i : Nat) : (dataShift v).getLsbD i = v.getLsbD (8 + i) := by
  simp [dataShift]

/-- The bits of `{b, data[D-1:8]}`: the old bits eight places down, the byte on top. -/
theorem getLsbD_dataInsert {d : Nat} (hd : 8 ≤ d) (h64 : d ≤ 64) (b : Byte) {v : Data} (hv : v.toNat < 2 ^ d)
    (i : Nat) :
    (dataInsert d b v).getLsbD i = if i < d - 8 then v.getLsbD (8 + i) else b.getLsbD (i - (d - 8)) := by
  have hv := (toNat_lt_iff v d).mp hv
  unfold dataInsert
  simp only [BitVec.getLsbD_or, BitVec.getLsbD_ushiftRight, BitVec.getLsbD_shiftLeft, BitVec.getLsbD_setWidth]
  by_cases hi : i < d - 8
  · simp [hi]
  · rw [if_neg hi, hv (8 + i) (by omega)]
    by_cases h : i < 64
    · simp [h, hi, show i - (d - 8) < 64 by omega]
    · simp [h, BitVec.getLsbD_of_ge b (i - (d - 8)) (by omega)]

theorem dataInsert_lt {d : Nat} (hd : 8 ≤ d) (h64 : d ≤ 64) (b : Byte) {v : Data} (hv : v.toNat < 2 ^ d) :
    (dataInsert d b v).toNat < 2 ^ d := by
  rw [toNat_lt_iff]
  intro i hi
  rw [getLsbD_dataInsert hd h64 b hv, if_neg (by omega)]
  exact BitVec.getLsbD_of_ge b _ (by omega)

theorem dataShift_lt {d : Nat} {v : Data} (hv : v.toNat < 2 ^ d) : (dataShift v).toNat < 2 ^ d := by
  rw [toNat_lt_iff] at hv ⊢
  intro i hi
  rw [getLsbD_dataShift]
  exact hv _ (by omega)

theorem addrShift_lt {a v : Nat} (hv : v < 2 ^ a) : addrShift v < 2 ^ a := by
  unfold addrShift
  omega

theorem addrInsert_lt {a : Nat} (ha : 8 ≤ a) (b : Byte) {v : Nat} (hv : v < 2 ^ a) : addrInsert a b v < 2 ^ a := by
  unfold addrInsert
  have hb := b.isLt
  obtain ⟨k, rfl⟩ : ∃ k, a = k + 8 := ⟨a - 8, by omega⟩
  rw [Nat.pow_add] at hv ⊢
  have h₁ : v / 256 < 2 ^ k := by omega
  have h₂ : b.toNat * 2 ^ k ≤ 255 * 2 ^ k := Nat.mul_le_mul_right _ (by omega)
  simp only [Nat.add_sub_cancel]
  omega

theorem allSelected_lt (n : Nat) : (allSelected n).toNat < 2 ^ n := lowSelect_lt n _

/-- The byte emitted first is lane 0. -/
theorem dataByte_eq_lane (v : Data) : dataByte v = laneByte v 0 := by
  simp [dataByte, laneByte]

/-- A shift moves every lane down by one. -/
theorem laneByte_dataShift (v : Data) (i : Nat) : laneByte (dataShift v) i = laneByte v (i + 1) := by
  apply BitVec.eq_of_getLsbD_eq
  intro j hj
  simp only [laneByte, BitVec.getLsbD_setWidth, BitVec.getLsbD_ushiftRight, getLsbD_dataShift]
  congr 2
  omega

/-- An insertion moves every lane down by one and puts the byte on top. -/
theorem laneByte_dataInsert {n : Nat} (h0 : 0 < n) (h8 : n ≤ 8) (b : Byte) {v : Data}
    (hv : v.toNat < 2 ^ (8 * n)) {i : Nat} (hi : i < n) :
    laneByte (dataInsert (8 * n) b v) i = if i + 1 = n then b else laneByte v (i + 1) := by
  apply BitVec.eq_of_getLsbD_eq
  intro j hj
  simp only [laneByte, BitVec.getLsbD_setWidth, BitVec.getLsbD_ushiftRight]
  rw [getLsbD_dataInsert (by omega) (by omega) b hv]
  by_cases h : i + 1 = n
  · rw [if_pos h, if_neg (by omega)]
    simp only [hj, decide_true, Bool.true_and]
    congr 1
    omega
  · rw [if_neg h, if_pos (by omega)]
    simp only [BitVec.getLsbD_setWidth, BitVec.getLsbD_ushiftRight]
    congr 2
    omega

end Sys2Proof.Machine
end

