-- ==== Sys2Proof/Laws/PerInstr.lean ====
section
/-! SUPPORT. The family Encode: what holds of each command byte as syntax. -/

namespace Sys2Proof

/-- A single byte is read as a command exactly when it is the command's byte. -/
theorem decode_singleton_iff (b : Byte) (i : Instr) : decode [b] = .ok (i, []) ↔ b = i.byte := by
  rw [← Machine.decodeByte_eq_some]
  simp only [decode]
  cases h : decodeByte b <;> simp

namespace Laws.Encode

/-- The command is well formed, it occupies one byte, no other byte is read as it, and the host's table word of eight
bits is decoded to it. -/
def Statement (i : Instr) : Prop :=
  i.wf = true ∧ (encode i).length = 1 ∧ (∀ b, decode [b] = .ok (i, []) ↔ b = i.byte) ∧
    decodeTableWord 8 i.byte.toNat = some i

theorem read : Statement .read := ⟨rfl, rfl, fun b => decode_singleton_iff b _, rfl⟩

theorem write : Statement .write := ⟨rfl, rfl, fun b => decode_singleton_iff b _, rfl⟩

theorem readAck : Statement .readAck := ⟨rfl, rfl, fun b => decode_singleton_iff b _, rfl⟩

theorem writeAck : Statement .writeAck := ⟨rfl, rfl, fun b => decode_singleton_iff b _, rfl⟩

end Laws.Encode

end Sys2Proof
end

