-- ==== Sys2Proof/Laws/Quiet.lean ====
section
/-! SUPPORT. Cycles in which only the wide bus and the responder act: no reset and no register-bus write. What such a cycle
leaves alone, and how the schedule and the strobe generator move through them. -/

namespace Sys2Proof.Machine

/-! ### The register file -/

/-- `rb_adr[2]` decides the register (44 R230). -/
theorem sameWord_config (a : BitVec 3) : sameWord Config.cfgOffset a = !a.getLsbD 2 := by
  revert a
  decide

theorem Pins.newDiv_eq_extract (p : Pins) : p.newDiv = p.rbDatW.extractLsb' 0 3 := by
  apply BitVec.eq_of_getLsbD_eq
  intro j hj
  simp [Pins.newDiv, Config.cfgDivLsb, hj]

theorem Pins.newEn_eq (p : Pins) : p.newEn = p.rbDatW.getLsbD 3 := rfl

/-- Without a write the registers hold. -/
theorem ConfigRegs.next_hold {p : Pins} (h : p.rbWe = false) (c : ConfigRegs) : c.next p = c := by
  simp [ConfigRegs.next, Pins.writesConfig, h]

/-! ### Stops -/

/-- Without a register-bus write the only fault is bus contention. -/
theorem State.stop?_eq_none {s : State} (hw : s.pins.rbWe = false) (hd : ¬ (s.hOe = true ∧ s.pOe = true)) :
    s.stop? = none := by
  rw [← State.driver_both] at hd
  simp [State.stop?, hd, ConfigRegs.divisorChanges, ConfigRegs.enableCleared, Pins.writesConfig, hw]

/-- A cycle of an accepted configuration without reset, register-bus write and contention is live. -/
theorem State.live_of_quiet {s : State} (hp : refusalOf s.params = none) (hr : s.pins.rst = false)
    (hw : s.pins.rbWe = false) (hd : ¬ (s.hOe = true ∧ s.pOe = true)) : s.live :=
  ⟨hp, hr, State.stop?_eq_none hw hd⟩

/-! ### The memory -/

/-- Memory holds where the peripheral is not writing. -/
theorem State.memNext_of_ne {s : State} (h : s.periph.pstate ≠ .writeWishbone) : s.memNext = s.mem := by
  simp [State.memNext, State.rWe, PeriphRegs.rWe, h]

/-- Memory holds in a cycle in which the responder does not acknowledge. -/
theorem State.memNext_of_no_ack {s : State} (h : s.pins.rAck = false) : s.memNext = s.mem := by
  simp [State.memNext, h]

/-! ### The schedule -/

@[simp] theorem State.pinsAt_zero (s : State) : s.pinsAt 0 = s.pins := by
  unfold State.pinsAt State.pins
  cases s.inputs <;> rfl

/-- A cycle moves the schedule on by one. -/
@[simp] theorem State.edgeWith_pinsAt (s : State) (b : Byte) (k : Nat) :
    (s.edgeWith b).pinsAt k = s.pinsAt (k + 1) := by
  unfold State.pinsAt
  cases h : s.inputs <;> simp [h]

theorem quietFor_succ (n : Nat) (ps : List Pins) :
    quietFor (n + 1) ps = true ↔
      (ps.headD Pins.quiet).rst = false ∧ (ps.headD Pins.quiet).rbWe = false ∧ quietFor n ps.tail = true := by
  simp [quietFor, and_assoc]

/-- Quiet for longer is quiet for shorter. -/
theorem quietFor_mono {m n : Nat} (hmn : m ≤ n) {ps : List Pins} (h : quietFor n ps = true) :
    quietFor m ps = true := by
  induction m generalizing n ps with
  | zero => rfl
  | succ m ih =>
    obtain ⟨n, rfl⟩ : ∃ k, n = k + 1 := ⟨n - 1, by omega⟩
    obtain ⟨h₁, h₂, h₃⟩ := (quietFor_succ n ps).mp h
    exact (quietFor_succ m ps).mpr ⟨h₁, h₂, ih (by omega) h₃⟩

/-! ### The strobe generator -/

/-- One more cycle at the end of a stretch. -/
theorem StrobeRegs.after_succ (v : StrobeVariant) (c : ConfigRegs) (n : Nat) (g : StrobeRegs) :
    StrobeRegs.after v c (n + 1) g = (StrobeRegs.after v c n g).next v c := by
  induction n generalizing g with
  | zero => rfl
  | succ n ih =>
    rw [StrobeRegs.after, ih]
    rfl

/-! ### Between ticks -/

/-- A quiet cycle between ticks with a busy host: only the strobe generator, the schedule and the draws move. -/
theorem State.edgeWith_hold {s : State} (hw : s.pins.rbWe = false) (hs : s.strobe = false)
    (h₁ : s.host.hstate ≠ .idle) (h₂ : s.host.hstate ≠ .wishboneAck) (b : Byte) :
    s.edgeWith b = { s with
      gen := s.gen.next s.params.strobeVariant s.cfg
      inputs := s.inputs.tail
      draws := s.draws + 1 } := by
  have hp := State.pAdv_of_not_strobe hs
  simp only [State.edgeWith, State.edge, State.hostNext, hs, HostRegs.next_hold _ _ _ h₁ h₂, State.periphNext_hold hp,
    State.memNext_hold hp, ConfigRegs.next_hold hw]

end Sys2Proof.Machine
end

