-- ==== Sys2Proof/Tests/Slice0.lean ====
section
/-! SUPPORT. The model's own tests: one step each on a small state, the expected values taken from the spec's vectors
(spec/95_test_vectors.md, cited by their names there), and for every obligation with hypotheses a state that meets them. -/

namespace Sys2Proof.Tests

open Sys2Proof.Machine

/-! ### Well-formedness: each check refuses an ill-formed term -/

theorem test_wf_default : Widths.default.wf = true := by decide
theorem test_wf_smallest : (Widths.mk 8 8).wf = true := by decide
theorem test_wf_refuses_no_address : (Widths.mk 0 64).wf = false := by decide
theorem test_wf_refuses_odd_address : (Widths.mk 12 64).wf = false := by decide
theorem test_wf_refuses_no_data : (Widths.mk 32 0).wf = false := by decide
theorem test_wf_refuses_odd_data : (Widths.mk 32 60).wf = false := by decide
theorem test_wf_refuses_nine_data_bytes : (Widths.mk 32 72).wf = false := by decide

theorem test_frame_wf : (Frame.write 0xDDC0FFE8 0xFF 0x0123456789ABCDEF).wf Widths.default = true := by decide
theorem test_frame_refuses_read_address : (Frame.read 0x100).wf ⟨8, 8⟩ = false := by decide
theorem test_frame_refuses_write_address : (Frame.write 0x100 0 0).wf ⟨8, 8⟩ = false := by decide
theorem test_frame_refuses_select : (Frame.write 0 2 0).wf ⟨8, 8⟩ = false := by decide
theorem test_frame_refuses_write_data : (Frame.write 0 1 0x100).wf ⟨8, 8⟩ = false := by decide
theorem test_frame_refuses_read_data : (Frame.readAck 0x100).wf ⟨8, 8⟩ = false := by decide

/-- The four refusals of 60 R285 and 70 R322. -/
theorem test_refusals :
    refusalOf { Params.default with periphWidths := ⟨32, 72⟩ } = some .widthsOutsideR7 ∧
      refusalOf { Params.default with hostReadSel := true } = some .hostReadSel ∧
      refusalOf { Params.default with peripherals := 2 } = some .severalPeripherals ∧
      refusalOf { Params.default with responderPacing := .otherClock } = some .responderPacing ∧
      refusalOf Params.default = none := by decide

/-! ### Decoding: the bytes written out from 30_encoding.md -/

theorem test_decode_read : decode [0b00000010] = .ok (.read, []) := by decide
theorem test_decode_write : decode [0b00000011] = .ok (.write, []) := by decide
theorem test_decode_readAck : decode [0b10000010] = .ok (.readAck, []) := by decide
theorem test_decode_writeAck : decode [0b10000011] = .ok (.writeAck, []) := by decide
theorem test_decode_rejects_by_name :
    decode [0x00] = .error (.notACommand 0x00) ∧ decode [0x43] = .error (.notACommand 0x43) ∧
      decode [] = .error .noByte := by decide
theorem test_decode_rejects_short_frame :
    decodeFrame Widths.default [0x02, 0x38, 0x21, 0x78] = .error (.frameTooShort .read) := by decide

/-- Vector 1.1: the bytes of the write scenario. -/
theorem test_decode_write_frame :
    decodeFrame Widths.default
        [0x03, 0xE8, 0xFF, 0xC0, 0xDD, 0xFF, 0xEF, 0xCD, 0xAB, 0x89, 0x67, 0x45, 0x23, 0x01] =
      .ok (.write 0xDDC0FFE8 0xFF 0x0123456789ABCDEF, []) := by decide
/-- Vector 1.2: the bytes of the read scenario, request and response. -/
theorem test_decode_read_frames :
    decodeFrame Widths.default [0x02, 0x38, 0x21, 0x78, 0x53] = .ok (.read 0x53782138, []) ∧
      decodeFrame Widths.default [0x82, 0xBB, 0x44, 0xAA, 0x33, 0x99, 0x22, 0x88, 0x11] =
        .ok (.readAck 0x1188229933AA44BB, []) := by decide
/-- Vectors 2.3: the codec. -/
theorem test_codec :
    isAck 0x83 .write = true ∧ isAck 0x82 .write = false ∧ isAck 0x03 .write = false ∧ isAck 0x82 .read = true ∧
      isAck 0x83 .read = false ∧ isAck 0x7D .read = false := by decide
/-- Vectors 2.2: spot values of the parity. -/
theorem test_parity :
    [0x00, 0x01, 0x02, 0x03, 0x80, 0x82, 0x83, 0xFF].map (parity false) =
      [false, true, true, false, true, false, true, false] := by decide

/-! ### Small states -/

/-- The parameters of the spec's vectors: the defaults and `BUS_FLOAT = 0x00`. -/
def params : Params := { Params.default with busFloat := some 0x00 }

/-- A request on the wide bus. -/
def request (we : Bool) (adr : Nat) (dat : Data) (sel : Select) : Pins :=
  { Pins.quiet with wbCyc := true, wbStb := true, wbWe := we, wbAdr := adr, wbDatW := dat, wbSel := sel }

/-- A register-bus write. -/
def regWrite (adr : BitVec 3) (dat : BitVec 32) (sel : BitVec 4) : Pins :=
  { Pins.quiet with rbWe := true, rbAdr := adr, rbDatW := dat, rbSel := sel }

/-- A tick cycle (`cfg_div = 0`, `cfg_en = 1`, `ctr = 1`, `prev = 0`) in which the two controllers stand in the given
states, with the given pins. -/
def tickAt (h : HState) (r : PState) (p : Pins) : State :=
  { State.resetWith params with
    gen := ⟨1, false, 0⟩
    host := { HostRegs.reset with hstate := h }
    periph := { PeriphRegs.reset with pstate := r }
    cfg := ⟨0, true, 0⟩
    inputs := [p] }

/-- The cycle after it, which is no tick. -/
def offTick (s : State) : State := { s with gen := ⟨2, true, 1⟩ }

def withHost (s : State) (f : HostRegs → HostRegs) : State := { s with host := f s.host }
def withPeriph (s : State) (f : PeriphRegs → PeriphRegs) : State := { s with periph := f s.periph }
def withCfg (s : State) (c : ConfigRegs) : State := { s with cfg := c }

/-- The next state of an outcome. -/
def next? : Host.Outcome State Fault Refusal → Option State
  | .next s => some s
  | .fault _ => none
  | .refused _ => none

/-- The fault of an outcome. -/
def fault? : Host.Outcome State Fault Refusal → Option Fault
  | .next _ => none
  | .fault f => some f
  | .refused _ => none

/-- Both ends built with one address byte and one data byte (vector 2.7 (a)). -/
def small (s : State) : State := { s with params := { s.params with hostWidths := ⟨8, 8⟩, periphWidths := ⟨8, 8⟩ } }

/-! ### The four commands -/

/-- Q3: READ opens a frame. -/
theorem test_read_opens : (next? (exec .read (withPeriph (tickAt .readCmd .idle Pins.quiet)
      fun r => { r with paddr := 0x1234 }))).map (·.periph) = some ⟨.readAddr, 0, 0, 0, 3, 0⟩ := by decide
/-- Q9: the byte of READ in the address phase is an address byte. -/
theorem test_read_as_payload : (next? (exec .read (withPeriph (tickAt .writeAddr .writeAddr Pins.quiet)
      fun r => { r with pcount := 2 }))).map (·.periph) = some ⟨.writeAddr, 0x02000000, 0, 0, 1, 0⟩ := by decide
/-- Q2: WRITE opens a frame. -/
theorem test_write_opens : (next? (exec .write (withPeriph (tickAt .writeCmd .idle Pins.quiet)
      fun r => { r with paddr := 0x1234 }))).map (·.periph) = some ⟨.writeAddr, 0, 0, 0, 3, 0⟩ := by decide
/-- Q5: between ticks nothing is recognised. -/
theorem test_write_between_ticks : (next? (exec .write (offTick (tickAt .writeCmd .idle Pins.quiet)))).map
      (·.periph) = some PeriphRegs.reset := by decide
/-- H17: READ_ACK starts the capture. -/
theorem test_readAck_heard : (next? (exec .readAck (withHost (tickAt .readAck .readAck Pins.quiet)
      fun h => { h with hdata := 0x55 }))).map (·.host) = some ⟨.readData, 0, 0, 0, 7, 0⟩ := by decide
/-- H21: inside the data it is data. -/
theorem test_readAck_as_data : (next? (exec .readAck (withHost (tickAt .readData .readData Pins.quiet)
      fun h => { h with hcount := 3 }))).map (fun s => (s.host.hstate, s.host.hdata, s.host.hcount)) =
    some (.readData, 0x8200000000000000, 2) := by decide
/-- H14: WRITE_ACK completes. -/
theorem test_writeAck_heard : (next? (exec .writeAck (tickAt .writeAck .writeAck Pins.quiet))).map
      (fun s => (s.host.hstate, s.wbAck, s.wbStall)) = some (.wishboneAck, true, false) := by decide
/-- H18: a read that waits does not take WRITE_ACK. -/
theorem test_writeAck_not_for_reads : (next? (exec .writeAck (tickAt .readAck .readAck Pins.quiet))).map
      (·.host.hstate) = some .readAck := by decide

/-! ### One side alone (45 R255), the byte from the other end being free -/

/-- A host side at a tick that waits for the acknowledgment of a write. -/
def hostAlone : HostSide := (tickAt .writeAck .idle Pins.quiet).hostSide

/-- The fault or the host registers a host side alone steps to. -/
def hostAfter (o : Host.Outcome HostSide Fault Refusal) : Option (Fault ⊕ HostRegs) :=
  match o with
  | .next h => some (.inr h.host)
  | .fault f => some (.inl f)
  | .refused _ => none

/-- E7 and H14: `0x82` is ignored, `0x83` completes. -/
theorem test_host_alone :
    hostAfter (hostAlone.step Pins.quiet 0x82) = some (.inr hostAlone.host) ∧
      hostAfter (hostAlone.step Pins.quiet 0x83) = some (.inr { hostAlone.host with hstate := .wishboneAck }) := by
  decide
/-- E10 on the host side alone: clearing the enable bit while it waits. -/
theorem test_host_alone_fault :
    hostAfter (hostAlone.step (regWrite 0 0 1) 0x00) = some (.inl .unsafeEnableChange) := by decide
/-- Q2 and Q5: `0x03` opens a frame in a cycle with `p_adv = 1`, and nothing changes with `p_adv = 0`. -/
theorem test_periph_alone :
    PeriphRegs.reset.step Widths.default false true 0x03 false 0 = ⟨.writeAddr, 0, 0, 0, 3, 0⟩ ∧
      PeriphRegs.reset.step Widths.default false false 0x03 false 0 = PeriphRegs.reset := by decide

/-! ### Host, peripheral, register file, responder: one step each -/

/-- H4: a write is accepted. -/
theorem test_host_accepts_write :
    (next? (step (tickAt .idle .idle (request true 0xDDC0FFE8 0x0123456789ABCDEF 0xFF)))).map (·.host) =
      some ⟨.writeCmd, 0xDDC0FFE8, 0x0123456789ABCDEF, 0xFF, 0, 0x03⟩ := by decide
/-- H5: a read captures the address only. -/
theorem test_host_accepts_read :
    (next? (step (withHost (tickAt .idle .idle (request false 0x53782138 1 0x55))
      fun h => { h with hdata := 7, hsel := 9 }))).map (·.host) =
      some ⟨.readCmd, 0x53782138, 7, 9, 0, 0x02⟩ := by decide
/-- H1: between ticks nothing is captured; the request is stalled. -/
theorem test_host_idle_between_ticks :
    (offTick (tickAt .idle .idle (request true 1 2 3))).wbStall = true ∧
      (next? (step (offTick (tickAt .idle .idle (request true 1 2 3))))).map (·.host) = some HostRegs.reset := by
  decide
/-- H8. -/
theorem test_host_address_byte :
    (next? (step (withHost (tickAt .writeAddr .writeAddr Pins.quiet)
      fun h => { h with haddr := 0x00DDC0FF, hcount := 3 }))).map (·.host) =
      some ⟨.writeAddr, 0x0000DDC0, 0, 0, 2, 0xFF⟩ := by decide
/-- H9. -/
theorem test_host_select_byte :
    (next? (step (withHost (tickAt .writeAddr .writeAddr Pins.quiet)
      fun h => { h with hsel := 0x0F }))).map (·.host) = some ⟨.writeSel, 0, 0, 0x0F, 0, 0x0F⟩ := by decide
/-- H13. -/
theorem test_host_frame_end :
    (next? (step (tickAt .writeData .writeData Pins.quiet))).map (·.host) =
      some ⟨.writeAck, 0, 0, 0, 0, 0x00⟩ := by decide
/-- H20: the last data byte. -/
theorem test_host_last_data_byte :
    (next? (step (withPeriph (withHost (tickAt .readData .readData Pins.quiet)
      fun h => { h with hdata := 0x88229933AA44BB00 }) fun r => { r with pout := 0x11 }))).map
      (fun s => (s.host.hstate, s.wbDatR, s.wbAck)) = some (.wishboneAck, 0x1188229933AA44BB, true) := by decide
/-- H22. -/
theorem test_host_completion :
    (next? (step (offTick (tickAt .wishboneAck .idle (request true 1 2 3))))).map (·.host.hstate) =
      some .idle := by decide
/-- Q7. -/
theorem test_periph_last_address_byte :
    (next? (step (withHost (withPeriph (tickAt .writeAddr .writeAddr Pins.quiet)
      fun r => { r with paddr := 0xC0FFE800 }) fun h => { h with hout := 0xDD }))).map (·.periph) =
      some ⟨.writeSel, 0xDDC0FFE8, 0, 0, 0, 0⟩ := by decide
/-- Q12. -/
theorem test_periph_last_data_byte :
    (next? (step (withHost (withPeriph (tickAt .writeData .writeData Pins.quiet)
      fun r => { r with pdata := 0x23456789ABCDEF00 }) fun h => { h with hout := 0x01 }))).map (·.periph) =
      some ⟨.writeWishbone, 0, 0x0123456789ABCDEF, 0, 0, 0⟩ := by decide
/-- Q14 and program 2, statement 3: select 0x81 writes bytes 0 and 7 (here of a word of zeros). -/
theorem test_responder_write :
    (next? (step (withPeriph (tickAt .writeAck .writeWishbone Pins.quiet)
      fun r => { r with paddr := 0x20, pdata := 0xA5A5A5A5A5A5A5A5, psel := 0x81 }))).map
      (fun s => (s.periph.pstate, s.periph.pout, s.mem)) =
    some (.writeAck, 0x83, [(0x100, 0xA5), (0x107, 0xA5)]) := by decide
/-- Q17: the responder presents the word of the vector. -/
theorem test_responder_read :
    (next? (step (tickAt .readAck .readWishbone { Pins.quiet with rDatR := some 0x1188229933AA44BB }))).map
      (fun s => (s.periph.pstate, s.periph.pout, s.periph.pdata)) =
    some (.readAck, 0x82, 0x1188229933AA44BB) := by decide
/-- Q19. -/
theorem test_periph_data_byte :
    (next? (step (withPeriph (tickAt .readData .readData Pins.quiet)
      fun r => { r with pdata := 0x11, pcount := 1 }))).map (·.periph) =
      some ⟨.readData, 0, 0, 0, 0, 0x11⟩ := by decide
/-- G4: the old value is read in the cycle of the write, the fields change in the next; the link is at rest. -/
theorem test_config_write :
    (withCfg (tickAt .idle .idle (regWrite 0 0xFFFFFFFA 0xF)) ⟨3, true, 0⟩).rbDatR = 0xB ∧
      (next? (step (withCfg (tickAt .idle .idle (regWrite 0 0xFFFFFFFA 0xF)) ⟨3, true, 0⟩))).map (·.cfg) =
        some ⟨2, true, 0⟩ := by decide
/-- G8. -/
theorem test_status_write :
    (next? (step (withCfg (tickAt .idle .idle (regWrite 4 0xAABBCCDD 0x5)) ⟨0, true, 0x11223344⟩))).map
      (·.cfg.status) = some 0x11BB33DD := by decide
/-- Vector 2.1: `cfg_div = 1`, the tick at `ctr = 2`. -/
theorem test_tick :
    (StrobeRegs.mk 2 false 0).raw .tapEdge ⟨1, true, 0⟩ = true ∧
      (StrobeRegs.mk 3 true 0).raw .tapEdge ⟨1, true, 0⟩ = false ∧
      (StrobeRegs.mk 0xFF true 0).next .tapEdge ⟨1, true, 0⟩ = ⟨0, true, 0⟩ ∧
      (StrobeRegs.mk 0 false 0).next .modN ⟨7, true, 0⟩ = ⟨0, false, 255⟩ := by decide
/-- E9, E10 and E4: the three model-level faults. -/
theorem test_faults :
    fault? (step (offTick (tickAt .writeData .writeData (regWrite 0 0x9 1)))) = some .unsafeDivisorChange ∧
      fault? (step (offTick (tickAt .readAck .readWishbone (regWrite 0 0x0 1)))) = some .unsafeEnableChange ∧
      fault? (step (tickAt .idle .writeAck Pins.quiet)) = some .busContention := by decide
/-- H24 and Q22: reset wins over everything, over a fault too. -/
theorem test_reset_wins :
    (next? (step (tickAt .idle .writeAck { Pins.quiet with rst := true }))).map
      (fun s => (s.host, s.periph, s.cfg)) = some (HostRegs.reset, PeriphRegs.reset, ⟨0, false, 0⟩) := by decide

/-- The output pins of a cycle in the middle of a transaction, with a request pending. -/
def pinsWith (rst : Bool) : OutPins :=
  (tickAt .wishboneAck .writeWishbone { request true 1 2 3 with rst := rst }).outPins

/-- 70 R312: in the first cycle with `rst = 1` the pins are those of the reset state. -/
theorem test_reset_outputs :
    (pinsWith true).wbAck = false ∧ (pinsWith true).wbStall = true ∧ (pinsWith true).hOe = true ∧
      (pinsWith true).hOut = 0x00 ∧ (pinsWith true).pOe = false ∧ (pinsWith true).rCyc = false ∧
      (pinsWith true).rWe = false ∧ (pinsWith true).strobe = false := by decide

/-- 10 R34 to R39: without reset they are those of the present states. -/
theorem test_outputs_without_reset :
    (pinsWith false).wbAck = true ∧ (pinsWith false).wbStall = false ∧ (pinsWith false).hOe = false ∧
      (pinsWith false).pOe = false ∧ (pinsWith false).rCyc = true ∧ (pinsWith false).rWe = true ∧
      (pinsWith false).strobe = true := by decide

/-- The command bytes the host places run as the first instruction after reset. -/
theorem test_withFetchWord :
    [2, 3, 0x82, 0x83].map (fun w => (State.reset.withFetchWord 8 w).command?) =
      [some .read, some .write, some .readAck, some .writeAck] := by decide

/-- Program 1, statement 1, as one cycle of the closed loop: the CONFIG write takes one cycle and lands. -/
theorem test_bench_config_write :
    (match Bench.step ⟨[.cfgw 0 8 1, .rd 0x1000], 0, 0, [], [], State.resetWith params⟩ with
      | .next b => some (b.script, b.machine.cfg)
      | .fault _ => none
      | .refused _ => none) = some ([.rd 0x1000], ⟨0, true, 0⟩) := by decide

/-! ### Witnesses: for each obligation with hypotheses, a concrete case that meets them together; where its clauses have
premises of their own, one case for each -/

theorem witness_CommandDecodesFromItsBytes : Instr.readAck.wf = true := by decide

theorem witness_FrameDecodesFromItsBytes :
    (Widths.default.wf = true ∧ (Frame.write 0xFFFFFFFF 0xFF 0xFFFFFFFFFFFFFFFF).wf Widths.default = true) ∧
      ((Widths.mk 8 8).wf = true ∧ (Frame.write 0xFF 1 0xFF).wf ⟨8, 8⟩ = true) := by decide

theorem witness_AddressBytesAssemble :
    (Widths.mk 8 64).wf = true ∧ 0xFF < 2 ^ (Widths.mk 8 64).a ∧ 0x80 < 2 ^ (Widths.mk 8 64).a := by decide

theorem witness_DataBytesAssemble :
    Widths.default.wf = true ∧ (0xFFFFFFFFFFFFFFFF : Data).toNat < 2 ^ Widths.default.d ∧
      (0x5A : Data).toNat < 2 ^ Widths.default.d := by decide

/-- A command on the bus, and a live cycle with a byte that is none. -/
theorem witness_StepRunsTheCommandOnTheBus :
    (decode [(withHost (tickAt .readCmd .idle Pins.quiet) fun h => { h with hout := 0x02 }).bus] = .ok (.read, []) ∧
        Instr.read.wf = true) ∧
      (tickAt .idle .idle Pins.quiet).live ∧ decodeByte (tickAt .idle .idle Pins.quiet).bus = none := by decide

theorem witness_LiveCyclesComplete : (tickAt .writeAck .writeWishbone Pins.quiet).live := by decide

theorem witness_ReadOpensAFrame :
    let s := tickAt .readCmd .idle Pins.quiet
    s.live ∧ s.strobe = true ∧ s.params.attached = true ∧ s.periph.pstate = .idle ∧ s.pins.rbWe = false := by decide

theorem witness_WriteOpensAFrame :
    let s := tickAt .writeCmd .idle Pins.quiet
    s.live ∧ s.strobe = true ∧ s.params.attached = true ∧ s.periph.pstate = .idle ∧ s.pins.rbWe = false := by decide

/-- Beside a peripheral that sends, and beside one whose write is not yet acknowledged. -/
theorem witness_ReadAckStartsTheCapture :
    ∀ r ∈ [PState.readAck, .writeWishbone],
      let s := tickAt .readAck r { Pins.quiet with rAck := false }
      s.live ∧ s.strobe = true ∧ s.host.hstate = .readAck ∧ s.pins.rbWe = false ∧
        ¬ (s.pAdv = true ∧ s.periph.pstate = .writeWishbone ∧ s.pins.rAck = true) := by decide

/-- Beside a peripheral that sends, and beside one whose write is not yet acknowledged. -/
theorem witness_WriteAckCompletesTheWrite :
    ∀ r ∈ [PState.writeAck, .writeWishbone],
      let s := tickAt .writeAck r { Pins.quiet with rAck := false }
      s.live ∧ s.strobe = true ∧ s.host.hstate = .writeAck ∧ s.pins.rbWe = false ∧
        ¬ (s.pAdv = true ∧ s.periph.pstate = .writeWishbone ∧ s.pins.rAck = true) := by decide

/-- A command, and a step on a byte that is none, that write no memory; one that writes lane 0 of the word at 1, with keys of it and beside it that stay; one
between ticks. -/
theorem witness_CommandFrame :
    (∃ t, exec .read (tickAt .readCmd .idle Pins.quiet) = .next t) ∧
      (∃ t, step (tickAt .idle .idle Pins.quiet) = .next t) ∧ (tickAt .readCmd .idle Pins.quiet).live ∧
      (tickAt .readCmd .idle Pins.quiet).pins.rbWe = false ∧
      (tickAt .readCmd .idle Pins.quiet).periph.pstate ≠ .writeWishbone ∧
      (let s := withPeriph (tickAt .writeAck .writeWishbone Pins.quiet) fun r => { r with paddr := 1, psel := 1 }
       s.live ∧ s.mem.wf = true ∧ ∀ k ∈ [7, 9, 15, 16],
         ¬ (k / 8 = s.rAdr ∧ k % 8 < s.params.periphWidths.nd ∧ s.rSel.getLsbD (k % 8) = true)) ∧
      (let s := offTick (tickAt .writeAddr .writeAddr Pins.quiet)
       s.live ∧ s.strobe = false ∧ s.host.hstate ≠ .idle ∧ s.host.hstate ≠ .wishboneAck) :=
  ⟨⟨_, rfl⟩, ⟨_, rfl⟩, by decide⟩

theorem witness_UnrecognisedByteIsNoOp :
    (let s := tickAt .idle .idle Pins.quiet
     s.live ∧ s.periph.pstate = .idle ∧ s.bus ≠ 0x02 ∧ s.bus ≠ 0x03) ∧
      (let s := tickAt .writeAck .writeWishbone Pins.quiet
       s.live ∧ s.host.hstate = .writeAck ∧ s.bus ≠ 0x83) ∧
      (let s := tickAt .readAck .readWishbone Pins.quiet
       s.live ∧ s.host.hstate = .readAck ∧ s.bus ≠ 0x82) := by decide

/-- Links in step with the host alone, and with the peripheral alone, in such a state; each side alone; both ends. -/
theorem witness_InboundByteIgnored :
    (let s := tickAt .writeSel .writeSel Pins.quiet
     s.live ∧ s.inSync ∧ s.host.hstate ∉ [HState.writeAck, .readAck, .readData]) ∧
      (let s := tickAt .writeAck .writeWishbone Pins.quiet
       s.live ∧ s.inSync ∧ s.periph.pstate ∉ [PState.idle, .writeAddr, .readAddr, .writeSel, .writeData]) ∧
      (HostSide.reset params).host.hstate ∉ [HState.writeAck, .readAck, .readData] ∧
      (let s := offTick (tickAt .wishboneAck .writeWishbone Pins.quiet)
       s.live ∧ s.host.hstate ∉ [HState.writeAck, .readAck, .readData] ∧
         s.periph.pstate ∉ [PState.idle, .writeAddr, .readAddr, .writeSel, .writeData]) := by decide

theorem witness_CounterRunsFree :
    (tickAt .idle .idle Pins.quiet).live ∧ (tickAt .idle .idle Pins.quiet).params.strobeVariant = .tapEdge := by
  decide

/-- A tick; and a pulse that the gate withholds. -/
theorem witness_TicksNeverAdjacent :
    (let s := tickAt .idle .idle Pins.quiet
     (∃ t, step s = .next t) ∧ s.pins.rst = false ∧ s.gen.raw s.params.strobeVariant s.cfg = true ∧
       s.strobe = true) ∧
      (let s := withCfg (tickAt .idle .idle Pins.quiet) ⟨0, false, 0⟩
       (∃ t, step s = .next t) ∧ s.pins.rst = false ∧ s.gen.raw s.params.strobeVariant s.cfg = true ∧
         s.strobe = false) :=
  ⟨⟨⟨_, rfl⟩, by decide⟩, ⟨_, rfl⟩, by decide⟩

theorem witness_TicksOnePeriodApart :
    (StrobeRegs.mk 0x80 false 0).onTick .tapEdge ⟨7, true, 0⟩ = true ∧
      (StrobeRegs.mk 0x43 false 0).onTick .tapEdge ⟨0, true, 0⟩ = true ∧
      (StrobeRegs.mk 0x55 true 0).onTick .modN ⟨7, true, 0⟩ = true := by decide

theorem witness_EnableSemanticsCoincide :
    (tickAt .idle .idle Pins.quiet).cfg.cfgEn = true ∧ ∃ t, step (tickAt .idle .idle Pins.quiet) = .next t :=
  ⟨by decide, _, rfl⟩

/-- Byte 0 selected, and not (G4, G5). -/
theorem witness_ConfigWriteLandsNextCycle :
    ∀ sel ∈ [0x1, 0xE],
      let s := tickAt .idle .idle (regWrite 3 0xFFFFFFFA sel)
      s.live ∧ s.pins.rbWe = true ∧ s.pins.rbAdr.getLsbD 2 = false := by decide

/-- The responder acknowledges a write, and a read. -/
theorem witness_AckBytes :
    ∀ r ∈ [PState.writeWishbone, .readWishbone],
      let s := tickAt .writeAck r Pins.quiet
      s.live ∧ s.strobe = true ∧ s.params.attached = true ∧ s.pins.rAck = true ∧ s.periph.pstate = r := by decide

/-- A host that waits for either acknowledgment. -/
theorem witness_IsAckIsEquality :
    ∀ h ∈ [HState.writeAck, .readAck],
      (tickAt h .idle Pins.quiet).live ∧ (tickAt h .idle Pins.quiet).strobe = true ∧
        (tickAt h .idle Pins.quiet).host.hstate = h := by decide

/-- G5, byte 0 not selected; and a CONFIG write, which is no STATUS write. -/
theorem witness_RegistersChangeOnlyByWrite :
    (let s := tickAt .writeAddr .writeAddr (regWrite 0 7 0xE)
     s.live ∧ ¬ (s.pins.rbWe = true ∧ s.pins.rbAdr.getLsbD 2 = false ∧ s.pins.rbSel.getLsbD 0 = true)) ∧
      (let s := tickAt .idle .idle (regWrite 3 8 0xF)
       s.live ∧ ¬ (s.pins.rbWe = true ∧ s.pins.rbAdr.getLsbD 2 = true)) := by decide

theorem witness_StatusWrite :
    let s := tickAt .writeAddr .writeAddr (regWrite 7 0 0x8)
    s.live ∧ s.pins.rbWe = true ∧ s.pins.rbAdr.getLsbD 2 = true := by decide

/-- The three branches: a write, a read, no request at a tick. -/
theorem witness_IdleHostAcceptsAtATick :
    (let s := tickAt .idle .idle (request true 1 2 3)
     s.live ∧ s.host.hstate = .idle ∧ s.strobe = true ∧ s.pins.wbCyc = true ∧ s.pins.wbStb = true ∧
       s.pins.wbWe = true) ∧
      (let s := tickAt .idle .idle (request false 1 2 3)
       s.live ∧ s.host.hstate = .idle ∧ s.strobe = true ∧ s.pins.wbCyc = true ∧ s.pins.wbStb = true ∧
         s.pins.wbWe = false) ∧
      (let s := offTick (tickAt .idle .idle (request true 1 2 3))
       s.live ∧ s.host.hstate = .idle ∧ s.strobe = false) := by decide

theorem witness_HostSendsTheAddress :
    ∀ h ∈ [HState.writeCmd, .readCmd, .writeAddr, .readAddr],
      (tickAt h .idle Pins.quiet).live ∧ (tickAt h .idle Pins.quiet).strobe = true ∧
        (tickAt h .idle Pins.quiet).host.hstate = h := by decide

theorem witness_HostMovesTheData :
    ∀ h ∈ [HState.writeSel, .writeData, .readData],
      (tickAt h .idle Pins.quiet).live ∧ (tickAt h .idle Pins.quiet).strobe = true ∧
        (tickAt h .idle Pins.quiet).host.hstate = h := by decide

theorem witness_CompletionLastsOneCycle :
    (offTick (tickAt .wishboneAck .idle Pins.quiet)).live ∧
      (offTick (tickAt .wishboneAck .idle Pins.quiet)).host.hstate = .wishboneAck := by decide

theorem witness_BusyHostIgnoresTheRequest : (tickAt .writeSel .writeSel Pins.quiet).host.hstate ≠ .idle := by decide

theorem witness_PeripheralTakesTheFrame :
    ∀ r ∈ [PState.writeAddr, .readAddr, .writeSel, .writeData],
      (tickAt .idle r Pins.quiet).live ∧ (tickAt .idle r Pins.quiet).strobe = true ∧
        (tickAt .idle r Pins.quiet).params.attached = true ∧ (tickAt .idle r Pins.quiet).periph.pstate = r := by
  decide

/-- A responder that acknowledges and one that does not. -/
theorem witness_AcknowledgedWriteIsPerformed :
    ∀ ack ∈ [true, false],
      let s := tickAt .writeAck .writeWishbone { Pins.quiet with rAck := ack }
      s.live ∧ s.strobe = true ∧ s.params.attached = true ∧ s.periph.pstate = .writeWishbone ∧ s.mem.wf = true ∧
        s.pins.rAck = ack := by decide

/-- No acknowledge; the memory's word; another word. -/
theorem witness_AcknowledgedReadIsCaptured :
    ∀ p ∈ [{ Pins.quiet with rAck := false }, Pins.quiet, { Pins.quiet with rDatR := some 5 }],
      let s := tickAt .readAck .readWishbone p
      s.live ∧ s.strobe = true ∧ s.params.attached = true ∧ s.periph.pstate = .readWishbone := by decide

theorem witness_PeripheralSendsTheAnswer :
    ∀ r ∈ [PState.writeAck, .readAck, .readData],
      (tickAt .readData r Pins.quiet).live ∧ (tickAt .readData r Pins.quiet).strobe = true ∧
        (tickAt .readData r Pins.quiet).params.attached = true ∧ (tickAt .readData r Pins.quiet).periph.pstate = r := by
  decide

theorem witness_MemoryChangesOnlyByAcknowledgedWrite :
    ∃ t, step (withPeriph (tickAt .writeAck .writeWishbone Pins.quiet) fun r => { r with pdata := 1, psel := 1 }) =
        .next t ∧ t.mem ≠ (tickAt .writeAck .writeWishbone Pins.quiet).mem :=
  ⟨_, rfl, by decide⟩

theorem witness_WordWriteMergesSelectedBytes :
    Memory.wf [(8, 1), (15, 2)] = true ∧ (8 : Nat) ≤ 8 ∧ (0 : Nat) < 8 ∧ (2 : Nat) ≠ 1 := by decide

/-- The host drives; the peripheral drives; nobody drives. -/
theorem witness_BusCarriesTheDriversByte :
    (let s := tickAt .writeSel .writeSel Pins.quiet
     s.params.attached = true ∧ s.hOe = true ∧ s.pOe = false) ∧
      (let s := tickAt .readData .readData Pins.quiet
       s.params.attached = true ∧ s.hOe = false ∧ s.pOe = true) ∧
      (let s := tickAt .writeAck .writeWishbone Pins.quiet
       s.params.attached = true ∧ s.hOe = false ∧ s.pOe = false ∧ s.params.busFloat = some 0) ∧
      (let s := tickAt .writeAck .writeWishbone { Pins.quiet with rst := true }
       s.params.attached = true ∧ s.pins.rst = true) := by decide

theorem witness_ResetFitsWidths : refusalOf Params.default = none := by decide

theorem witness_StepKeepsWidths :
    (tickAt .writeAck .writeWishbone Pins.quiet).wf ∧
      ∃ t, step (tickAt .writeAck .writeWishbone Pins.quiet) = .next t :=
  ⟨by decide, _, rfl⟩

theorem witness_StepKeepsOutputs :
    (tickAt .writeAck .writeWishbone Pins.quiet).outputsFit = true ∧
      ∃ t, step (tickAt .writeAck .writeWishbone Pins.quiet) = .next t :=
  ⟨by decide, _, rfl⟩

theorem witness_ResetLinkInStep :
    params.attached = true ∧ params.hostWidths = params.periphWidths := by decide

/-- The turnaround of a write, and a completion cycle. -/
theorem witness_StepKeepsLinkInStep :
    ((tickAt .writeAck .writeWishbone Pins.quiet).inSync ∧ (tickAt .writeAck .writeWishbone Pins.quiet).floatHarmless ∧
        ∃ t, step (tickAt .writeAck .writeWishbone Pins.quiet) = .next t) ∧
      (offTick (tickAt .wishboneAck .idle Pins.quiet)).inSync :=
  ⟨⟨by decide, by decide, _, rfl⟩, by decide⟩

theorem witness_LinkInStepHasNoContention : (tickAt .readData .readData Pins.quiet).inSync := by decide

/-- A request held for two cycles while its frame is sent. -/
theorem witness_StallEqualsUnfinishedRequest :
    let s := { tickAt .writeSel .writeSel Pins.quiet with inputs := [request true 1 2 3, request true 1 2 3] }
    s.busyRequested ∧ s.requestHeld ∧ s.pins.rst = false ∧ ∃ t, step s = .next t :=
  ⟨by decide, by decide, by decide, _, rfl⟩

theorem witness_ParityInvertReachesNoState : ∃ t, step (tickAt .idle .idle (request true 1 2 3)) = .next t := ⟨_, rfl⟩

theorem witness_ResetHasPriority :
    refusalOf (tickAt .idle .writeAck { Pins.quiet with rst := true }).params = none ∧
      (tickAt .idle .writeAck { Pins.quiet with rst := true }).pins.rst = true ∧
      (tickAt .idle .writeAck { Pins.quiet with rst := true }).params.strobeVariant = .tapEdge ∧
      { params with strobeVariant := .modN }.strobeVariant = .modN := by decide

theorem witness_ResetTable : Params.default.strobeVariant = .tapEdge := by decide

/-- Each fault where its clause holds; both changes at once report the divisor; at rest a change is no fault. -/
theorem witness_FaultsExactlyAsNamed :
    fault? (step (tickAt .writeSel .readData (regWrite 0 0x9 1))) = some .busContention ∧
      fault? (step (tickAt .writeSel .writeSel (regWrite 0 0x1 1))) = some .unsafeDivisorChange ∧
      fault? (step (tickAt .writeSel .writeSel (regWrite 0 0x0 1))) = some .unsafeEnableChange ∧
      fault? (step (tickAt .idle .idle { request true 1 2 3 with rbWe := true, rbSel := 1 })) =
        some .unsafeEnableChange ∧
      fault? (step (tickAt .idle .idle (regWrite 0 0x7 1))) = none := by decide

/-- A refused configuration and one that runs. -/
theorem witness_RefusedConfigurations :
    (∃ r, step { State.reset with params := { Params.default with peripherals := 2 } } = .refused r) ∧
      ¬ ∃ r, step State.reset = .refused r :=
  ⟨⟨_, rfl⟩, fun ⟨_, h⟩ => by cases h⟩

/-- Vector 2.7 (a): `A = 8`, `D = 8`, `cfg_div = 0`; a responder that waits one peripheral cycle. -/
def waitingOnce (k : Nat) (p : Pins) : List Pins :=
  List.replicate (2 * k) p ++ [{ p with rAck := false }, p, p]

theorem witness_WriteTransactionEndToEnd :
    let s := small { tickAt .idle .idle Pins.quiet with inputs := waitingOnce 5 (request true 0x80 0xC3 1) }
    let w := s.params.hostWidths
    s.acceptsFor ((w.na + w.nd + 4 + 1) * s.cfg.period + 1) ∧ s.pins.wbWe = true ∧ s.wf ∧
      s.responderWaits (w.na + w.nd + 3) 1 :=
  ⟨⟨by decide, by decide, by decide, by decide, by decide, by decide, ⟨0, by decide, by decide, by decide⟩, by decide⟩,
    by decide, by decide, by decide⟩

theorem witness_ReadTransactionEndToEnd :
    let s := small { tickAt .idle .idle Pins.quiet with inputs := waitingOnce 3 (request false 0x7F 0 0) }
    let w := s.params.hostWidths
    s.acceptsFor ((w.na + w.nd + 3 + 1) * s.cfg.period + 1) ∧ s.pins.wbWe = false ∧ s.wf ∧
      s.responderWaits (w.na + 2) 1 ∧ (s.pinsAt ((w.na + 2 + 1) * s.cfg.period)).rDatR = none :=
  ⟨⟨by decide, by decide, by decide, by decide, by decide, by decide, ⟨0, by decide, by decide, by decide⟩, by decide⟩,
    by decide, by decide, by decide, by decide⟩

theorem witness_WriteFrameOnTheWire :
    let s := tickAt .idle .idle (request true 0xDDC0FFE8 0x0123456789ABCDEF 0xFF)
    s.acceptsFor (14 * s.cfg.period) ∧ s.pins.wbWe = true ∧
      (encodeFrame s.params.hostWidths (.write (s.pins.addr s.params.hostWidths) (s.pins.sel s.params.hostWidths)
        (s.pins.data s.params.hostWidths))).length = 14 :=
  ⟨⟨by decide, by decide, by decide, by decide, by decide, by decide, ⟨0, by decide, by decide, by decide⟩, by decide⟩,
    by decide, by decide⟩

/-- Program 4: the responder never acknowledges (two cycles of it). -/
theorem witness_SilentResponderHangsTheLink :
    let s := { tickAt .writeAck .writeWishbone Pins.quiet with
      inputs := [{ Pins.quiet with rAck := false }, { Pins.quiet with rAck := false }] }
    refusalOf s.params = none ∧ s.inSync ∧
      (s.periph.pstate = .writeWishbone ∨ s.periph.pstate = .readWishbone) ∧
      (∃ b, s.params.busFloat = some b ∧ b ≠ 0x82 ∧ b ≠ 0x83) ∧ quietFor 2 s.inputs = true ∧
      ∀ k < 2, (s.pinsAt k).rAck = false :=
  ⟨by decide, by decide, by decide, ⟨0, by decide, by decide, by decide⟩, by decide, by decide⟩

/-- A read at its acceptance tick; a write and a read at the tick at which the responder acknowledges. -/
theorem witness_ReadAndAnswerFramesOnTheWire :
    (let s := tickAt .idle .idle (request false 0x53782138 0 0)
     s.acceptsFor ((encodeFrame s.params.hostWidths (.read (s.pins.addr s.params.hostWidths))).length *
       s.cfg.period + 1) ∧ s.pins.wbWe = false) ∧
      (let s := tickAt .writeAck .writeWishbone Pins.quiet
       s.answersFor ((encodeFrame s.params.periphWidths .writeAck).length * s.cfg.period + 1) ∧
         s.periph.pstate = .writeWishbone) ∧
      (let s := tickAt .readAck .readWishbone { Pins.quiet with rDatR := some 0x1188229933AA44BB }
       s.answersFor ((encodeFrame s.params.periphWidths
         (.readAck (lowData s.params.periphWidths.d s.rDatR))).length * s.cfg.period + 1) ∧
         s.periph.pstate = .readWishbone) :=
  ⟨⟨⟨by decide, by decide, by decide, by decide, by decide, by decide, ⟨0, by decide, by decide, by decide⟩,
      by decide⟩, by decide⟩,
    ⟨⟨by decide, by decide, by decide, by decide, by decide, ⟨0, by decide, by decide, by decide⟩, by decide⟩,
      by decide⟩,
    ⟨by decide, by decide, by decide, by decide, by decide, ⟨0, by decide, by decide, by decide⟩, by decide⟩,
    by decide⟩

/-- The outputs of either variant: both premises of the clauses on `strobe` and `clk_out`; no reset. -/
theorem witness_OutputsByState :
    (tickAt .idle .idle Pins.quiet).params.strobeVariant = .tapEdge ∧
      { params with strobeVariant := .modN }.strobeVariant = .modN ∧
      (tickAt .idle .idle Pins.quiet).pins.rst = false := by decide

end Sys2Proof.Tests
end

section
/-! PROOFS. The configuration record (spec/00_scope.md): `PARITY_INVERT` reaches no state (R9), and exactly the
configurations the spec excludes are refused (R7, 60_exceptions.md R285, 70_reset_and_hazards.md R322). -/

namespace Sys2Proof.Machine

/-! ### `PARITY_INVERT` reaches no state -/

/-- The same machine built with another `PARITY_INVERT` (R9). -/
def State.withParityInvert (s : State) (x : Bool) : State :=
  { s with params := { s.params with parityInvert := x } }

section ParityInvert
variable (s : State) (x : Bool)

@[simp] theorem State.withParityInvert_refusalOf :
    refusalOf (s.withParityInvert x).params = refusalOf s.params := rfl

@[simp] theorem State.withParityInvert_pins : (s.withParityInvert x).pins = s.pins := rfl

@[simp] theorem State.withParityInvert_stop? : (s.withParityInvert x).stop? = s.stop? := rfl

theorem State.withParityInvert_live : (s.withParityInvert x).live ↔ s.live := by
  rw [State.live, State.withParityInvert_refusalOf, State.withParityInvert_pins, State.withParityInvert_stop?]

@[simp] theorem State.withParityInvert_bus : (s.withParityInvert x).bus = s.bus := rfl

@[simp] theorem State.withParityInvert_resetEvent :
    (s.withParityInvert x).resetEvent = s.resetEvent.withParityInvert x := rfl

@[simp] theorem State.withParityInvert_edgeWith (b : Byte) :
    (s.withParityInvert x).edgeWith b = (s.edgeWith b).withParityInvert x := rfl

end ParityInvert

/-- The two outcomes of a step that goes on, the reset event and the clock edge, keep the configuration record. -/
theorem step_params {s t : State} (h : step s = .next t) : t.params = s.params := by
  obtain ⟨-, ⟨-, rfl⟩ | ⟨-, -, rfl⟩⟩ := step_next h
  · exact s.resetEvent_params
  · exact s.edgeWith_params s.bus

/-- Changing `PARITY_INVERT` commutes with a step that goes on. -/
theorem step_withParityInvert {s t : State} (h : step s = .next t) (x : Bool) :
    step (s.withParityInvert x) = .next (t.withParityInvert x) := by
  obtain ⟨hp, ⟨hr, rfl⟩ | ⟨hr, hs, rfl⟩⟩ := step_next h
  · rw [step_eq_cycle, State.cycle_reset (by simpa using hp) (by simpa using hr),
      State.withParityInvert_resetEvent]
  · have hlive : (s.withParityInvert x).live := (s.withParityInvert_live x).mpr ⟨hp, hr, hs⟩
    rw [step_live hlive, State.withParityInvert_bus, State.withParityInvert_edgeWith]

/-- Settles O51: none of a step's two outcomes reads or writes `PARITY_INVERT`. -/
theorem parityInvertReachesNoState : Obligations.ParityInvertReachesNoState :=
  fun _ _ x h => ⟨step_params h, step_withParityInvert h x⟩

/-! ### The refused configurations -/

/-- A step is refused exactly when the configuration is, for the same reason. -/
theorem step_refused_iff (s : State) (r : Refusal) : step s = .refused r ↔ refusalOf s.params = some r := by
  rw [step_eq_cycle, State.cycle_refused_iff]

/-- A command is refused exactly when the configuration is, for the same reason. -/
theorem exec_refused_iff (i : Instr) (s : State) (r : Refusal) :
    exec i s = .refused r ↔ refusalOf s.params = some r := by
  rw [exec_eq_cycle, State.cycle_refused_iff]

/-- The width check is R7's condition. -/
theorem widths_wf_iff (w : Widths) :
    w.wf = true ↔ 0 < w.a ∧ 8 ∣ w.a ∧ 0 < w.d ∧ 8 ∣ w.d ∧ w.d ≤ 64 := by
  simp [Widths.wf, Nat.dvd_iff_mod_eq_zero, and_assoc]

/-- Some step outcome is a refusal exactly when the configuration is not one that is run. -/
theorem step_refused_iff_refusalOf_ne_none (s : State) :
    (∃ r, step s = .refused r) ↔ refusalOf s.params ≠ none := by
  simp only [step_refused_iff, Option.ne_none_iff_exists']

/-- Settles O55: a step and every command are refused exactly when `refusalOf` names a reason, and it names none exactly
for the configurations that are run. -/
theorem refusedConfigurations : Obligations.RefusedConfigurations := by
  intro s
  constructor
  · rw [step_refused_iff_refusalOf_ne_none, ne_eq, refusalOf_none, widths_wf_iff, widths_wf_iff]
    simp only [and_assoc]
  · intro i r
    rw [exec_refused_iff, step_refused_iff]

end Sys2Proof.Machine
end

section
/-! PROOFS. The state of the composed system (spec/10_state.md): the registers keep their widths and the memory its form
(R26, R27, R29, R30, R265), what a live cycle leaves unchanged (R32, R33, R130, R151, R191, R257), the derived outputs
(R34 to R40) and the reset table (R43). -/

namespace Sys2Proof.Machine

/-! ### Values that fit, for the widths of R7 -/

/-- A countdown that starts at `NA - 1` is in range. -/
theorem na_pred_lt {w : Widths} (hw : w.wf = true) : w.na - 1 < max w.na w.nd := by
  have ⟨_, hna, _⟩ := widths_wf hw
  omega

/-- A countdown that starts at `ND - 1` is in range. -/
theorem nd_pred_lt {w : Widths} (hw : w.wf = true) : w.nd - 1 < max w.na w.nd := by
  have ⟨_, _, _, hnd, _⟩ := widths_wf hw
  omega

/-- The byte-wise insertion keeps a data word in its width. -/
theorem dataInsert_lt_of_wf {w : Widths} (hw : w.wf = true) (b : Byte) {v : Data} (hv : v.toNat < 2 ^ w.d) :
    (dataInsert w.d b v).toNat < 2 ^ w.d := by
  have ⟨_, _, _, _, _⟩ := widths_wf hw
  exact dataInsert_lt (by omega) (by omega) b hv

/-- The byte-wise insertion keeps an address in its width. -/
theorem addrInsert_lt_of_wf {w : Widths} (hw : w.wf = true) (b : Byte) {v : Nat} (hv : v < 2 ^ w.a) :
    addrInsert w.a b v < 2 ^ w.a := by
  have ⟨_, _, _⟩ := widths_wf hw
  exact addrInsert_lt (by omega) b hv

/-! ### Widths kept by the host -/

section HostWidths
variable {w : Widths} {h : HostRegs}

theorem HostRegs.wf_reset (hw : w.wf = true) : HostRegs.reset.wf w :=
  ⟨Nat.two_pow_pos _, Nat.two_pow_pos _, Nat.two_pow_pos _, Nat.zero_lt_of_lt (na_pred_lt hw)⟩

theorem HostRegs.wf_stepIdle (hh : h.wf w) (tick : Bool) (p : Pins) : (h.stepIdle w tick p).wf w := by
  have ⟨_, hd, hs, hc⟩ := hh
  have haddr : p.addr w < 2 ^ w.a := Nat.mod_lt _ (Nat.two_pow_pos _)
  unfold HostRegs.stepIdle
  split
  · exact ⟨haddr, lowData_lt .., lowSelect_lt .., hc⟩
  · split
    · exact ⟨haddr, hd, hs, hc⟩
    · exact hh

theorem HostRegs.wf_emitAddr : h.wf w → h.emitAddr.wf w :=
  fun ⟨ha, hd, hs, hc⟩ => ⟨addrShift_lt ha, hd, hs, hc⟩

theorem HostRegs.wf_emitData : h.wf w → h.emitData.wf w :=
  fun ⟨ha, hd, hs, hc⟩ => ⟨ha, dataShift_lt hd, hs, hc⟩

theorem HostRegs.wf_setCount {n : Nat} (hn : n < max w.na w.nd) : h.wf w → { h with hcount := n }.wf w :=
  fun ⟨ha, hd, hs, _⟩ => ⟨ha, hd, hs, hn⟩

theorem HostRegs.wf_countDown (hh : h.wf w) : { h with hcount := h.hcount - 1 }.wf w :=
  have ⟨_, _, _, hc⟩ := hh
  HostRegs.wf_setCount (Nat.sub_lt_of_lt hc) hh

theorem HostRegs.wf_startAddr (hw : w.wf = true) (hh : h.wf w) (dest : HState) : (h.startAddr w dest).wf w :=
  HostRegs.wf_setCount (na_pred_lt hw) (HostRegs.wf_emitAddr hh)

theorem HostRegs.wf_stepWriteSel (hw : w.wf = true) (hh : h.wf w) : (h.stepWriteSel w).wf w :=
  HostRegs.wf_setCount (nd_pred_lt hw) (HostRegs.wf_emitData hh)

theorem HostRegs.wf_stepWriteAddr (hh : h.wf w) : h.stepWriteAddr.wf w := by
  unfold HostRegs.stepWriteAddr
  split
  · exact HostRegs.wf_countDown (HostRegs.wf_emitAddr hh)
  · exact hh

theorem HostRegs.wf_stepReadAddr (hh : h.wf w) : h.stepReadAddr.wf w := by
  unfold HostRegs.stepReadAddr
  split
  · exact HostRegs.wf_countDown (HostRegs.wf_emitAddr hh)
  · exact hh

theorem HostRegs.wf_stepWriteData (hh : h.wf w) : h.stepWriteData.wf w := by
  unfold HostRegs.stepWriteData
  split
  · exact HostRegs.wf_countDown (HostRegs.wf_emitData hh)
  · exact hh

theorem HostRegs.wf_takeReadAck (hw : w.wf = true) : h.wf w → (h.takeReadAck w).wf w :=
  fun ⟨ha, _, hs, _⟩ => ⟨ha, Nat.two_pow_pos _, hs, nd_pred_lt hw⟩

theorem HostRegs.wf_stepReadData (hw : w.wf = true) (b : Byte) (hh : h.wf w) : (h.stepReadData w b).wf w := by
  obtain ⟨ha, hd, hs, hc⟩ := hh
  have hd' : (dataInsert w.d b h.hdata).toNat < 2 ^ w.d := dataInsert_lt_of_wf hw b hd
  unfold HostRegs.stepReadData
  split
  · exact ⟨ha, hd', hs, hc⟩
  · exact ⟨ha, hd', hs, Nat.sub_lt_of_lt hc⟩

/-- At a tick no host state leaves the widths of R26 and R27. -/
theorem HostRegs.wf_atTick (hw : w.wf = true) (b : Byte) (hh : h.wf w) : (h.atTick w b).wf w := by
  unfold HostRegs.atTick
  cases h.hstate with
  | idle | wishboneAck => exact hh
  | writeCmd | readCmd => exact HostRegs.wf_startAddr hw hh _
  | writeAddr => exact HostRegs.wf_stepWriteAddr hh
  | readAddr => exact HostRegs.wf_stepReadAddr hh
  | writeSel => exact HostRegs.wf_stepWriteSel hw hh
  | writeData => exact HostRegs.wf_stepWriteData hh
  | readData => exact HostRegs.wf_stepReadData hw b hh
  | writeAck => dsimp only; split <;> exact hh
  | readAck =>
    dsimp only
    split
    · exact HostRegs.wf_takeReadAck hw hh
    · exact hh

/-- No cycle of the host leaves the widths of R26 and R27. -/
theorem HostRegs.wf_next (hw : w.wf = true) (tick : Bool) (p : Pins) (b : Byte) (hh : h.wf w) :
    (h.next w tick p b).wf w := by
  unfold HostRegs.next
  split
  · exact HostRegs.wf_stepIdle hh tick p
  · exact hh
  · split
    · exact HostRegs.wf_atTick hw b hh
    · exact hh

end HostWidths

/-! ### Widths kept by the peripheral -/

section PeriphWidths
variable {w : Widths} {r : PeriphRegs}

theorem PeriphRegs.wf_reset (hw : w.wf = true) : PeriphRegs.reset.wf w :=
  ⟨Nat.two_pow_pos _, Nat.two_pow_pos _, Nat.two_pow_pos _, Nat.zero_lt_of_lt (na_pred_lt hw)⟩

theorem PeriphRegs.wf_openFrame (hw : w.wf = true) (dest : PState) : r.wf w → (r.openFrame w dest).wf w :=
  fun ⟨_, hd, hs, _⟩ => ⟨Nat.two_pow_pos _, hd, hs, na_pred_lt hw⟩

theorem PeriphRegs.wf_stepIdle (hw : w.wf = true) (b : Byte) (hr : r.wf w) : (r.stepIdle w b).wf w := by
  unfold PeriphRegs.stepIdle
  split
  · exact PeriphRegs.wf_openFrame hw _ hr
  · split
    · exact PeriphRegs.wf_openFrame hw _ hr
    · exact hr

theorem PeriphRegs.wf_stepAddr (hw : w.wf = true) (dest : PState) (b : Byte) (hr : r.wf w) :
    (r.stepAddr w dest b).wf w := by
  obtain ⟨ha, hd, hs, hc⟩ := hr
  have ha' : addrInsert w.a b r.paddr < 2 ^ w.a := addrInsert_lt_of_wf hw b ha
  unfold PeriphRegs.stepAddr
  split
  · exact ⟨ha', hd, hs, hc⟩
  · exact ⟨ha', hd, hs, Nat.sub_lt_of_lt hc⟩

theorem PeriphRegs.wf_stepWriteSel (hw : w.wf = true) (b : Byte) : r.wf w → (r.stepWriteSel w b).wf w :=
  fun ⟨ha, hd, _, _⟩ => ⟨ha, hd, lowSelect_lt .., nd_pred_lt hw⟩

theorem PeriphRegs.wf_stepWriteData (hw : w.wf = true) (b : Byte) (hr : r.wf w) : (r.stepWriteData w b).wf w := by
  obtain ⟨ha, hd, hs, hc⟩ := hr
  have hd' : (dataInsert w.d b r.pdata).toNat < 2 ^ w.d := dataInsert_lt_of_wf hw b hd
  unfold PeriphRegs.stepWriteData
  split
  · exact ⟨ha, hd', hs, hc⟩
  · exact ⟨ha, hd', hs, Nat.sub_lt_of_lt hc⟩

theorem PeriphRegs.wf_readAcked (q : Data) : r.wf w → (r.readAcked w q).wf w :=
  fun ⟨ha, _, hs, hc⟩ => ⟨ha, lowData_lt .., hs, hc⟩

theorem PeriphRegs.wf_startData (hw : w.wf = true) : r.wf w → (r.startData w).wf w :=
  fun ⟨ha, hd, hs, _⟩ => ⟨ha, dataShift_lt hd, hs, nd_pred_lt hw⟩

theorem PeriphRegs.wf_stepReadData (hr : r.wf w) : r.stepReadData.wf w := by
  have ⟨ha, hd, hs, hc⟩ := hr
  unfold PeriphRegs.stepReadData
  split
  · exact ⟨ha, dataShift_lt hd, hs, Nat.sub_lt_of_lt hc⟩
  · exact hr

/-- No peripheral cycle leaves the widths of R29 and R30. -/
theorem PeriphRegs.wf_next (hw : w.wf = true) (b : Byte) (ack : Bool) (q : Data) (hr : r.wf w) :
    (r.next w b ack q).wf w := by
  unfold PeriphRegs.next
  cases r.pstate with
  | idle => exact PeriphRegs.wf_stepIdle hw b hr
  | writeAddr | readAddr => exact PeriphRegs.wf_stepAddr hw _ b hr
  | writeSel => exact PeriphRegs.wf_stepWriteSel hw b hr
  | writeData => exact PeriphRegs.wf_stepWriteData hw b hr
  | writeWishbone => dsimp only; split <;> exact hr
  | writeAck => exact hr
  | readWishbone =>
    dsimp only
    split
    · exact PeriphRegs.wf_readAcked q hr
    · exact hr
  | readAck => exact PeriphRegs.wf_startData hw hr
  | readData => exact PeriphRegs.wf_stepReadData hr

theorem PeriphRegs.wf_advance (hw : w.wf = true) (pAdv : Bool) (b : Byte) (ack : Bool) (q : Data) (hr : r.wf w) :
    (r.advance w pAdv b ack q).wf w := by
  cases pAdv with
  | true => exact PeriphRegs.wf_next hw b ack q hr
  | false => exact hr

end PeriphWidths

/-! ### The memory after a cycle -/

/-- The responder writes the addressed word exactly when it acknowledges the peripheral's write request in a peripheral
cycle (45 R257). -/
theorem State.memNext_eq (s : State) :
    s.memNext = if s.pAdv = true ∧ s.periph.pstate = .writeWishbone ∧ s.pins.rAck = true then
      s.mem.writeWord s.rAdr s.rDatW s.rSel s.params.periphWidths.nd else s.mem := by
  refine if_congr ?_ rfl rfl
  simp only [Bool.and_eq_true, State.rStb, State.rCyc, State.rWe, PeriphRegs.rCyc, PeriphRegs.rWe, Bool.or_eq_true,
    beq_iff_eq]
  tauto

/-- A cycle keeps the canonical form. -/
theorem State.wf_memNext {s : State} (hm : s.mem.wf = true) : s.memNext.wf = true := by
  rw [State.memNext_eq]
  split
  · exact Memory.wf_writeWord _ _ _ _ hm
  · exact hm

/-- A cycle keeps the listed cells in the address space, the address register being in it. -/
theorem State.within_memNext {s : State} (hw : s.params.periphWidths.wf = true)
    (ha : s.rAdr < 2 ^ s.params.periphWidths.a) (hm : s.mem.within s.params.periphWidths = true) :
    s.memNext.within s.params.periphWidths = true := by
  have ⟨_, _, _, _, hnd⟩ := widths_wf hw
  rw [State.memNext_eq]
  split
  · exact Memory.within_writeWord ha _ _ (Nat.le_refl _) hnd hm
  · exact hm

/-- A cycle leaves every byte that is no selected lane of the word at `r_adr` (45 R257). -/
theorem State.readByte_memNext_of_unselected {s : State} (hw : s.params.periphWidths.wf = true)
    (hm : s.mem.wf = true) {k : Nat}
    (hk : ¬ (k / 8 = s.rAdr ∧ k % 8 < s.params.periphWidths.nd ∧ s.rSel.getLsbD (k % 8) = true)) :
    s.memNext.readByte k = s.mem.readByte k := by
  have ⟨_, _, _, _, hnd⟩ := widths_wf hw
  rw [State.memNext_eq]
  split
  · rw [Memory.readByte_writeWord_lane _ _ _ hnd _ hm, if_neg hk]
  · rfl

/-! ### The state invariant -/

/-- A state whose controllers hold their reset values meets the invariant if its memory does. -/
theorem State.wf_of_reset {s : State} (hp : refusalOf s.params = none) (hh : s.host = HostRegs.reset)
    (hr : s.periph = PeriphRegs.reset) (hm : s.mem.wf = true) (hin : s.mem.within s.params.periphWidths = true) :
    s.wf := by
  obtain ⟨hwh, hwp, -⟩ := refusalOf_none.mp hp
  exact ⟨hh ▸ HostRegs.wf_reset hwh, hr ▸ PeriphRegs.wf_reset hwp, hm, hin⟩

/-- The clock edge keeps the invariant, whatever byte the bus carries. -/
theorem State.wf_edgeWith {s : State} (hp : refusalOf s.params = none) (hs : s.wf) (b : Byte) :
    (s.edgeWith b).wf := by
  obtain ⟨hwh, hwp, -⟩ := refusalOf_none.mp hp
  obtain ⟨hh, hr, hm, hin⟩ := hs
  have ⟨ha, _⟩ := hr
  exact ⟨HostRegs.wf_next hwh _ _ _ hh, PeriphRegs.wf_advance hwp _ _ _ _ hr, State.wf_memNext hm,
    State.within_memNext hwp ha hin⟩

/-- Settles O44: the two outcomes of a step that goes on, the reset event and the clock edge, meet the invariant. -/
theorem stepKeepsWidths : Obligations.StepKeepsWidths := by
  intro s t hs h
  obtain ⟨hp, ⟨-, rfl⟩ | ⟨-, -, rfl⟩⟩ := step_next h
  · obtain ⟨-, -, hm, hin⟩ := hs
    exact State.wf_of_reset hp rfl rfl hm hin
  · exact State.wf_edgeWith hp hs s.bus

/-- Settles O43: the controllers are at their reset values and the memory is empty. -/
theorem resetFitsWidths : Obligations.ResetFitsWidths := by
  have hreset (p : Params) (hp : refusalOf p = none) : (State.resetWith p).wf := State.wf_of_reset hp rfl rfl rfl rfl
  exact ⟨hreset, hreset Params.default (by decide)⟩

/-! ### What a live cycle leaves unchanged -/

/-- A step and every command end a live cycle with the clock edge, for some byte. -/
theorem State.live_next {s t : State} (hs : s.live) (h : step s = .next t ∨ ∃ i, exec i s = .next t) :
    ∃ b, t = s.edgeWith b := by
  obtain h | ⟨i, h⟩ := h
  · rw [step_live hs] at h
    exact ⟨s.bus, by cases h; rfl⟩
  · rw [exec_live hs] at h
    exact ⟨i.byte, by cases h; rfl⟩

/-- Between ticks a host that is neither idle nor completing holds (R151). -/
theorem State.hostNext_hold {s : State} (hs : s.strobe = false) (h₁ : s.host.hstate ≠ .idle)
    (h₂ : s.host.hstate ≠ .wishboneAck) (b : Byte) : s.hostNext b = s.host := by
  rw [State.hostNext, hs, HostRegs.next_hold _ _ _ h₁ h₂]

/-- Settles O17: each clause is the frame of one component of the clock edge. -/
theorem commandFrame : Obligations.CommandFrame := by
  intro s t hs h
  obtain ⟨b, rfl⟩ := State.live_next hs h
  have ⟨hp, _, _⟩ := hs
  obtain ⟨-, hwp, -⟩ := refusalOf_none.mp hp
  refine ⟨s.edgeWith_params b, fun hwe => ConfigRegs.next_hold hwe _, ?_, fun hno k => ?_, fun hm k hk => ?_,
    fun htick => ⟨?_, ?_⟩⟩
  · rw [State.edgeWith_gen]
    cases s.params.strobeVariant <;> rfl
  · rw [State.edgeWith_mem, State.memNext_eq, if_neg hno]
  · exact State.readByte_memNext_of_unselected hwp hm hk
  · exact State.periphNext_hold (State.pAdv_of_not_strobe htick) b
  · exact fun h₁ h₂ => State.hostNext_hold htick h₁ h₂ b

/-! ### The register file -/

theorem Pins.writesConfig_iff (p : Pins) :
    p.writesConfig = true ↔ p.rbWe = true ∧ p.rbAdr.getLsbD 2 = false ∧ p.rbSel.getLsbD 0 = true := by
  simp [Pins.writesConfig, sameWord_config, and_assoc]

/-- Only a write of CONFIG's byte 0 changes the fields of CONFIG (R32, R232). -/
theorem ConfigRegs.next_config_hold {p : Pins} (h : p.writesConfig = false) (c : ConfigRegs) :
    (c.next p).cfgDiv = c.cfgDiv ∧ (c.next p).cfgEn = c.cfgEn := by
  rw [ConfigRegs.next, if_neg (by simp [h])]
  split
  · exact ⟨rfl, rfl⟩
  · exact ⟨rfl, rfl⟩

/-- Only a write of STATUS changes STATUS (R33, R234). -/
theorem ConfigRegs.next_status_hold {p : Pins} (h : ¬ (p.rbWe = true ∧ p.rbAdr.getLsbD 2 = true)) (c : ConfigRegs) :
    (c.next p).status = c.status := by
  unfold ConfigRegs.next
  split
  · rfl
  · rw [if_neg (by simpa [sameWord_config] using h)]

/-- Settles O27: the clock edge of a live cycle moves the register file by its own rule. -/
theorem registersChangeOnlyByWrite : Obligations.RegistersChangeOnlyByWrite := by
  intro s hs
  refine ⟨_, step_live hs, fun h => ?_, fun h => ConfigRegs.next_status_hold h _⟩
  rw [← Pins.writesConfig_iff, Bool.not_eq_true] at h
  exact ConfigRegs.next_config_hold h _

/-! ### `wb_stall` under a held request -/

/-- An idle host that leaves IDLE has taken a pending request (R153). -/
theorem HostRegs.pending_of_stepIdle {h : HostRegs} {w : Widths} {tick : Bool} {p : Pins} (hidle : h.hstate = .idle)
    (hne : (h.stepIdle w tick p).hstate ≠ .idle) : p.pending = true := by
  unfold HostRegs.stepIdle at hne
  split at hne
  · simp_all [Pins.pendingWrite]
  · split at hne
    · simp_all [Pins.pendingRead]
    · exact absurd hidle hne

/-- A host that is busy after a cycle had its request on the pins in that cycle and did not complete in it. -/
theorem State.unfinished_of_hostNext {s : State} {b : Byte} (hs : s.busyRequested)
    (hne : (s.hostNext b).hstate ≠ .idle) : s.pins.pending = true ∧ s.wbAck = false := by
  by_cases hidle : s.host.hstate = .idle
  · rw [State.hostNext, HostRegs.next_idle _ _ _ _ hidle] at hne
    exact ⟨HostRegs.pending_of_stepIdle hidle hne, by simp [State.wbAck, HostRegs.wbAck, hidle]⟩
  · refine ⟨hs hidle, beq_eq_false_iff_ne.mpr fun hack => hne ?_⟩
    rw [State.hostNext, HostRegs.next_wishboneAck _ _ _ _ hack]
    rfl

theorem Pins.pending_of_sameRequest {p q : Pins} (h : p.sameRequest q) (hp : p.pending = true) :
    q.pending = true := by
  obtain ⟨hcyc, hstb, -⟩ := h
  rwa [Pins.pending, hcyc, hstb]

/-- The initiator's duty carries the request of a transaction in flight to the next cycle (R256 (b)). -/
theorem State.busyRequested_edgeWith {s : State} (hs : s.busyRequested) (hheld : s.requestHeld) (b : Byte) :
    (s.edgeWith b).busyRequested := by
  intro hne
  obtain ⟨hp, hack⟩ := State.unfinished_of_hostNext hs hne
  rw [State.edgeWith_pins]
  exact Pins.pending_of_sameRequest (hheld hp hack) hp

/-- R36 under a request that stands while the host is busy. -/
theorem State.wbStall_of_busyRequested {s : State} (hs : s.busyRequested) :
    s.wbStall = (s.pins.pending && !s.wbAck) := by
  unfold State.wbStall HostRegs.wbStall State.wbAck HostRegs.wbAck
  by_cases hidle : s.host.hstate = .idle
  · simp [hidle]
  · rw [hs hidle, bne, bne, beq_false_of_ne hidle]
    simp

/-- Settles O50: a live cycle carries the request on, and the request decides `wb_stall`. -/
theorem stallEqualsUnfinishedRequest : Obligations.StallEqualsUnfinishedRequest := by
  refine ⟨fun s t hs hheld hrst h => ?_, fun s hs => State.wbStall_of_busyRequested hs⟩
  obtain ⟨-, ⟨hr, -⟩ | ⟨-, -, rfl⟩⟩ := step_next h
  · simp [hrst] at hr
  · exact State.busyRequested_edgeWith hs hheld s.bus

/-! ### The derived outputs -/

section Outputs
variable (s : State)

theorem State.wbAck_iff : s.wbAck = true ↔ s.host.hstate = .wishboneAck := by
  simp [State.wbAck, HostRegs.wbAck]

theorem State.wbStall_iff :
    s.wbStall = true ↔ s.host.hstate ∉ [HState.idle, .wishboneAck] ∨
      s.host.hstate = .idle ∧ s.pins.wbCyc = true ∧ s.pins.wbStb = true := by
  simp [State.wbStall, HostRegs.wbStall, Pins.pending]

theorem State.hOe_iff :
    s.hOe = true ↔
      s.host.hstate ∈ [HState.idle, .writeCmd, .writeAddr, .writeSel, .writeData, .readCmd, .readAddr] := by
  unfold State.hOe HostRegs.oe
  cases s.host.hstate <;> decide

theorem PeriphRegs.oe_iff (r : PeriphRegs) :
    r.oe = true ↔ r.pstate ∈ [PState.writeAck, .readAck, .readData] := by
  unfold PeriphRegs.oe
  cases r.pstate <;> decide

theorem State.rCyc_iff : s.rCyc = true ↔ s.periph.pstate ∈ [PState.writeWishbone, .readWishbone] := by
  simp [State.rCyc, PeriphRegs.rCyc]

theorem State.rWe_iff : s.rWe = true ↔ s.periph.pstate = .writeWishbone := by
  simp [State.rWe, PeriphRegs.rWe]

/-- The select mask of a read is `2^ND - 1` (R39). -/
theorem allSelected_eq (n : Nat) : allSelected n = BitVec.ofNat 8 (2 ^ n - 1) := by
  apply BitVec.eq_of_getLsbD_eq
  intro i hi
  have hones : BitVec.getLsbD (0xFF : Select) i = true := by
    revert i
    decide
  rw [allSelected, getLsbD_lowSelect, hones, BitVec.getLsbD_ofNat, Nat.testBit_two_pow_sub_one, Bool.and_true]

theorem State.rSel_eq :
    s.rSel = if s.periph.pstate = .writeWishbone then s.periph.psel
      else BitVec.ofNat 8 (2 ^ s.params.periphWidths.nd - 1) := by
  simp [State.rSel, PeriphRegs.rSel, PeriphRegs.rWe, allSelected_eq]

/-- The gate is open under StoredOnly and when `cfg_en = 1` (R124). -/
theorem gate_iff (e : EnableSemantics) (c : ConfigRegs) :
    gate e c = true ↔ e = .storedOnly ∨ c.cfgEn = true := by
  cases e <;> simp [gate]

/-- TapEdge: a tick is a gated rising edge of the tap (R123). -/
theorem State.strobe_iff_tapEdge (hv : s.params.strobeVariant = .tapEdge) :
    s.strobe = true ↔ s.gen.ctr.getLsbD s.cfg.cfgDiv.toNat = true ∧ s.gen.prev = false ∧
      (s.params.enableSemantics = .storedOnly ∨ s.cfg.cfgEn = true) := by
  simp [State.strobe, StrobeRegs.strobe, StrobeRegs.raw, StrobeRegs.tap, hv, gate_iff, and_assoc]

/-- TapEdge: `clk_out` is the gated tap (R125). -/
theorem State.clkOut_tapEdge (hv : s.params.strobeVariant = .tapEdge) :
    ∃ c, s.clkOut = some c ∧ (c = true ↔ s.gen.ctr.getLsbD s.cfg.cfgDiv.toNat = true ∧
      (s.params.enableSemantics = .storedOnly ∨ s.cfg.cfgEn = true)) :=
  ⟨s.gen.tap s.cfg && gate s.params.enableSemantics s.cfg, by simp [State.clkOut, StrobeRegs.clkOut, hv],
    by simp [StrobeRegs.tap, gate_iff]⟩

/-- ModN: a tick is a gated countdown at 0 (R127). -/
theorem State.strobe_iff_modN (hv : s.params.strobeVariant = .modN) :
    s.strobe = true ↔ s.gen.cd = 0 ∧ (s.params.enableSemantics = .storedOnly ∨ s.cfg.cfgEn = true) := by
  simp [State.strobe, StrobeRegs.strobe, StrobeRegs.raw, hv, gate_iff]

/-- ModN has no clock output (R127). -/
theorem State.clkOut_modN (hv : s.params.strobeVariant = .modN) : s.clkOut = none := by
  simp [State.clkOut, StrobeRegs.clkOut, hv]

end Outputs

/-- Settles O41: each derived output by its own lemma. -/
theorem outputsByState : Obligations.OutputsByState := fun s =>
  ⟨s.wbAck_iff, s.wbStall_iff, s.hOe_iff, s.periph.oe_iff, s.rCyc_iff, rfl, s.rWe_iff, rfl, rfl, s.rSel_eq, rfl,
    ⟨fun hv => ⟨s.strobe_iff_tapEdge hv, s.clkOut_tapEdge hv⟩,
      fun hv => ⟨s.strobe_iff_modN hv, s.clkOut_modN hv⟩⟩,
    State.outPins_of_low⟩

/-! ### After reset -/

/-- Settles O45: both controllers rest in IDLE, whose output byte is zero (R43). -/
theorem resetOutputsFit : Obligations.ResetOutputsFit := fun _ => rfl

/-- The reset counter has no bit set, so TapEdge shows no strobe (R43). -/
theorem State.strobe_resetWith {p : Params} (hv : p.strobeVariant = .tapEdge) :
    (State.resetWith p).strobe = false := by
  rw [← Bool.not_eq_true, State.strobe_iff_tapEdge _ hv]
  simp [StrobeRegs.reset]

/-- Settles O53: the table is the definition of the reset state, the strobe of TapEdge aside. -/
theorem resetTable : Obligations.ResetTable := fun _ =>
  ⟨rfl, rfl, rfl, rfl, State.strobe_resetWith, rfl, rfl, rfl, rfl, rfl, rfl, rfl⟩

end Sys2Proof.Machine
end

section
/-! PROOFS. The responder's memory (spec/20_memory.md): what a word write does to a word read (R74, R265), and the only
cycles in which the memory changes (R68, R69, R257). -/

namespace Sys2Proof.Machine

/-! ### A word read after a word write -/

/-- A write of the word at `a`, seen at byte `i` of the word at `c` (45 R257). -/
theorem Memory.readByte_writeWord_byteKey (a c : Nat) (v : Data) (sel : Select) {n i : Nat} (hn : n ≤ 8) (hi : i < 8)
    {m : Memory} (h : m.wf = true) :
    (m.writeWord a v sel n).readByte (byteKey c i) =
      if c = a ∧ i < n ∧ sel.getLsbD i then laneByte v i else m.readByte (byteKey c i) := by
  have hword : byteKey c i / 8 = c := by unfold byteKey; omega
  have hlane : byteKey c i % 8 = i := by unfold byteKey; omega
  rw [Memory.readByte_writeWord_lane a v sel hn _ h, hword, hlane]

/-- The word that is written, lane by lane (R74). -/
theorem Memory.laneByte_readWord_writeWord_same (a : Nat) (v : Data) (sel : Select) {n i : Nat} (hn : n ≤ 8)
    (hi : i < n) {m : Memory} (h : m.wf = true) :
    laneByte ((m.writeWord a v sel n).readWord a n) i =
      if sel.getLsbD i then laneByte v i else laneByte (m.readWord a n) i := by
  have hi8 : i < 8 := by omega
  simp only [Memory.laneByte_readWord _ _ _ _ hn, Memory.readByte_writeWord_byteKey a a v sel hn hi8 h, hi, if_true,
    true_and]

/-- Every other word is left alone (R265). -/
theorem Memory.readWord_writeWord_of_ne {a c : Nat} (hc : c ≠ a) (v : Data) (sel : Select) {n : Nat} (hn : n ≤ 8)
    {m : Memory} (h : m.wf = true) : (m.writeWord a v sel n).readWord c n = m.readWord c n := by
  apply data_ext_lanes
  intro i hi
  have hkeep : (m.writeWord a v sel n).readByte (byteKey c i) = m.readByte (byteKey c i) := by
    rw [Memory.readByte_writeWord_byteKey a c v sel hn hi h, if_neg fun hk => hc hk.1]
  rw [Memory.laneByte_readWord _ _ _ _ hn, Memory.laneByte_readWord _ _ _ _ hn, hkeep]

/-- Settles O40: the addressed word lane by lane, and any other word. -/
theorem wordWriteMergesSelectedBytes : Obligations.WordWriteMergesSelectedBytes := by
  intro m a c v sel n hm hn
  simp only [← laneByte_eq_extract]
  exact ⟨fun i hi => Memory.laneByte_readWord_writeWord_same a v sel hn hi hm,
    fun hc => Memory.readWord_writeWord_of_ne hc v sel hn hm⟩

/-! ### When the memory changes -/

/-- The peripheral moves in the tick cycles of a link that has one. -/
theorem State.pAdv_iff (s : State) : s.pAdv = true ↔ s.strobe = true ∧ s.params.attached = true :=
  Bool.and_eq_true_iff

/-- A clock edge that changes memory ends a peripheral cycle in which the responder acknowledges a write (R257). -/
theorem State.acknowledged_of_memNext_ne {s : State} (h : s.memNext ≠ s.mem) :
    s.pAdv = true ∧ s.periph.pstate = .writeWishbone ∧ s.pins.rAck = true := by
  rw [State.memNext_eq] at h
  exact of_not_not fun hno => h (if_neg hno)

/-- Settles O39: reset keeps the memory, and the clock edge writes it only for an acknowledged request. -/
theorem memoryChangesOnlyByAcknowledgedWrite : Obligations.MemoryChangesOnlyByAcknowledgedWrite := by
  intro s t h hne
  obtain ⟨-, ⟨-, rfl⟩ | ⟨-, -, rfl⟩⟩ := step_next h
  · exact absurd s.resetEvent_mem hne
  · rw [State.edgeWith_mem] at hne
    obtain ⟨hadv, hwrite, hack⟩ := State.acknowledged_of_memNext_ne hne
    obtain ⟨hstrobe, hatt⟩ := s.pAdv_iff.mp hadv
    exact ⟨hstrobe, hatt, hwrite, hack⟩

end Sys2Proof.Machine
end

section
/-! PROOFS. Command bytes and frames (spec/30_encoding.md): every frame decodes from its bytes (R91 to R102), the bytes of
an operand inserted one after the other give it back (R100, R101), and a byte that nobody waits for is ignored (R104 to
R106). -/

namespace Sys2Proof

open Machine

/-! ### Command bytes -/

theorem Instr.byte_mem (i : Instr) : i.byte ∈ [0x02#8, 0x03#8, 0x82#8, 0x83#8] := by
  cases i <;> decide

/-- Settles O1: a byte that decodes is some command's byte. -/
theorem commandBytesDecode : Obligations.CommandBytesDecode := by
  refine ⟨decodeByte_byte .read, decodeByte_byte .write, decodeByte_byte .readAck, decodeByte_byte .writeAck,
    fun b hb => ?_⟩
  rw [Option.eq_none_iff_forall_ne_some]
  intro i hi
  exact hb (decodeByte_eq_some.mp hi ▸ i.byte_mem)

/-- A command byte is read off, whatever follows it. -/
theorem decode_byte_cons (i : Instr) (rest : List Byte) : decode (i.byte :: rest) = .ok (i, rest) := by
  simp only [decode, decodeByte_byte]

/-- Settles O2: a command is its byte, and that is read off. -/
theorem commandDecodesFromItsBytes : Obligations.CommandDecodesFromItsBytes :=
  fun i rest _ => decode_byte_cons i rest

/-! ### The bytes of a value -/

@[simp] theorem length_bytesOfNat (n v : Nat) : (bytesOfNat n v).length = n := by
  induction n generalizing v with
  | zero => rfl
  | succ n ih => simp [bytesOfNat, ih]

/-- The bytes of a value spell it, modulo what its bytes can hold (20_memory.md R63). -/
theorem natOfBytes_bytesOfNat (n v : Nat) : natOfBytes (bytesOfNat n v) = v % 256 ^ n := by
  induction n generalizing v with
  | zero => simp [bytesOfNat, natOfBytes, Nat.mod_one]
  | succ n ih => rw [bytesOfNat, natOfBytes, ih, BitVec.toNat_ofNat, Nat.pow_succ' (n := n), Nat.mod_mul]

theorem pow_bits_eq (n : Nat) : 2 ^ (8 * n) = 256 ^ n := Nat.pow_mul 2 8 n

/-- A value that fits a field of whole bytes is spelt by its bytes. -/
theorem natOfBytes_bytesOfNat_of_lt {n v : Nat} (h : v < 2 ^ (8 * n)) : natOfBytes (bytesOfNat n v) = v := by
  rw [natOfBytes_bytesOfNat, Nat.mod_eq_of_lt (pow_bits_eq n ▸ h)]

/-! ### Frames -/

/-- What follows the command byte of a frame on the wire (R94 to R97). -/
def Frame.payload (w : Widths) (f : Frame) : List Byte := (encodeFrame w f).tail

theorem encodeFrame_eq (w : Widths) (f : Frame) : encodeFrame w f = f.command.byte :: f.payload w := by
  cases f <;> rfl

theorem encodeFrame_ne_nil (w : Widths) (f : Frame) : encodeFrame w f ≠ [] := by
  rw [encodeFrame_eq]
  exact List.cons_ne_nil _ _

/-- The command byte says how many bytes follow (R99). -/
theorem length_payload (w : Widths) (f : Frame) : (f.payload w).length = f.command.payloadLength w := by
  cases f with
  | read a => exact length_bytesOfNat ..
  | write a s d =>
    simp only [Frame.payload, encodeFrame, List.tail_cons, List.length_append, List.length_cons, length_bytesOfNat,
      Frame.command, Instr.payloadLength]
    omega
  | readAck d => exact length_bytesOfNat ..
  | writeAck => rfl

/-- Settles O4: a frame is its command byte and its payload. -/
theorem frameLengthDecidedByCommand : Obligations.FrameLengthDecidedByCommand := by
  intro w f
  have hlen : (encodeFrame w f).length = 1 + f.command.payloadLength w := by
    rw [encodeFrame_eq, List.length_cons, length_payload, Nat.add_comm]
  refine ⟨by rw [encodeFrame_eq]; rfl, hlen.trans ?_⟩
  cases f <;> rfl

/-- A data word that fits is spelt by its bytes (R101). -/
theorem ofNat_natOfBytes_of_lt {n : Nat} {d : Data} (h : d.toNat < 2 ^ (8 * n)) :
    BitVec.ofNat 64 (natOfBytes (bytesOfNat n d.toNat)) = d := by
  rw [natOfBytes_bytesOfNat_of_lt h, BitVec.ofNat_toNat, BitVec.setWidth_eq]

/-- The fields of a write request, cut at `NA` bytes and at the select byte after them (R94). -/
theorem frameOf_write_append {w : Widths} {addr : List Byte} (h : addr.length = w.na) (sel : Byte)
    (data : List Byte) : frameOf w .write (addr ++ sel :: data) =
      .write (natOfBytes addr) (selectBits w sel) (BitVec.ofNat 64 (natOfBytes data)) := by
  have hdata : (addr ++ sel :: data).drop (w.na + 1) = data := by
    rw [List.append_cons]
    exact List.drop_left' (by simp [h])
  simp only [frameOf, List.take_left' h, hdata, List.getD_append_right _ _ _ _ h.le, h, Nat.sub_self,
    List.getD_cons_zero]

/-- The payload of a well-formed frame spells it, operand by operand (R94 to R97, R100 to R102). -/
theorem frameOf_payload {w : Widths} {f : Frame} (hw : w.wf = true) (hf : f.wf w = true) :
    frameOf w f.command (f.payload w) = f := by
  obtain ⟨ha, -, hd, -⟩ := widths_wf hw
  cases f with
  | read a =>
    have hfit : a < 2 ^ (8 * w.na) := ha ▸ of_decide_eq_true hf
    exact congrArg Frame.read (natOfBytes_bytesOfNat_of_lt hfit)
  | write a s d =>
    simp only [Frame.wf, Bool.and_eq_true, decide_eq_true_eq, and_assoc] at hf
    obtain ⟨hfa, hfs, hfd⟩ := hf
    have haddr : natOfBytes (bytesOfNat w.na a) = a := natOfBytes_bytesOfNat_of_lt (ha ▸ hfa)
    have hsel : selectBits w s = s := lowSelect_of_lt hfs
    calc frameOf w .write (bytesOfNat w.na a ++ s :: bytesOfNat w.nd d.toNat)
        = .write (natOfBytes (bytesOfNat w.na a)) (selectBits w s)
            (BitVec.ofNat 64 (natOfBytes (bytesOfNat w.nd d.toNat))) := frameOf_write_append (length_bytesOfNat ..) _ _
      _ = .write a s d := by rw [haddr, hsel, ofNat_natOfBytes_of_lt (hd ▸ hfd)]
  | readAck d =>
    have hfit : d.toNat < 2 ^ (8 * w.nd) := hd ▸ of_decide_eq_true hf
    exact congrArg Frame.readAck (ofNat_natOfBytes_of_lt hfit)
  | writeAck => rfl

/-- A command byte with exactly its payload is read as the frame they spell, and the rest is left (R99). -/
theorem decodeFrame_byte_append (w : Widths) (i : Instr) {payload : List Byte}
    (h : payload.length = i.payloadLength w) (rest : List Byte) :
    decodeFrame w (i.byte :: (payload ++ rest)) = .ok (frameOf w i payload, rest) := by
  have hle : i.payloadLength w ≤ (payload ++ rest).length := by rw [List.length_append, h]; omega
  simp only [decodeFrame, decode_byte_cons, if_pos hle]
  rw [List.take_left' h, List.drop_left' h]

/-- Settles O3: a frame is its command byte and a payload of the length that byte announces, and the payload spells the
operands. -/
theorem frameDecodesFromItsBytes : Obligations.FrameDecodesFromItsBytes := by
  intro w f rest hw hf
  rw [encodeFrame_eq, List.cons_append, decodeFrame_byte_append w _ (length_payload w f), frameOf_payload hw hf]

/-! ### Operands put together from their bytes -/

/-- Bytes inserted from the top push the register's old bytes out at the bottom, least significant first (R100). -/
theorem foldl_addrInsert {m : Nat} {bytes : List Byte} (h : bytes.length ≤ m) (v : Nat) :
    bytes.foldl (fun r b => addrInsert (8 * m) b r) v =
      v / 256 ^ bytes.length + natOfBytes bytes * 256 ^ (m - bytes.length) := by
  induction bytes generalizing v with
  | nil => simp [natOfBytes]
  | cons b bytes ih =>
    rw [List.length_cons] at h
    obtain ⟨k, rfl⟩ : ∃ k, m = k + bytes.length + 1 := ⟨m - (bytes.length + 1), by omega⟩
    have htop : addrInsert (8 * (k + bytes.length + 1)) b v = v / 256 + b.toNat * 256 ^ k * 256 ^ bytes.length := by
      rw [addrInsert, show 8 * (k + bytes.length + 1) - 8 = 8 * (k + bytes.length) by omega, pow_bits_eq, Nat.pow_add,
        Nat.mul_assoc]
    have hrest : k + bytes.length + 1 - bytes.length = k + 1 := by omega
    have hlast : k + bytes.length + 1 - (bytes.length + 1) = k := by omega
    rw [List.foldl_cons, ih (by omega), htop, hrest, List.length_cons, hlast, natOfBytes,
      Nat.add_mul_div_right _ _ (Nat.pow_pos (by decide)), Nat.div_div_eq_div_mul, Nat.pow_succ', Nat.pow_succ']
    ring

/-- As many insertions as the register has bytes push the old value out and leave the value the bytes spell. -/
theorem foldl_addrInsert_bytesOfNat {m a v : Nat} (ha : a < 2 ^ (8 * m)) (hv : v < 2 ^ (8 * m)) :
    (bytesOfNat m a).foldl (fun r b => addrInsert (8 * m) b r) v = a := by
  rw [foldl_addrInsert (length_bytesOfNat ..).le, length_bytesOfNat, Nat.div_eq_of_lt (pow_bits_eq m ▸ hv),
    natOfBytes_bytesOfNat_of_lt ha, Nat.sub_self, Nat.pow_zero, Nat.mul_one, Nat.zero_add]

/-- Settles O8: an address register of `A` bits takes `NA` insertions. -/
theorem addressBytesAssemble : Obligations.AddressBytesAssemble := by
  intro w a v hw ha hv
  obtain ⟨hwa, -⟩ := widths_wf hw
  rw [hwa] at ha hv ⊢
  exact foldl_addrInsert_bytesOfNat ha hv

/-- On a data register that fits, the insertion is that of an address (R100, R101). -/
theorem toNat_dataInsert {d : Nat} (hd : 8 ≤ d) (h64 : d ≤ 64) (b : Byte) {v : Data} (hv : v.toNat < 2 ^ d) :
    (dataInsert d b v).toNat = addrInsert d b v.toNat := by
  obtain ⟨k, rfl⟩ : ∃ k, d = k + 8 := ⟨d - 8, by omega⟩
  have hlow : v.toNat / 256 < 2 ^ k := by rw [Nat.pow_add] at hv; omega
  have htop : b.toNat * 2 ^ k < 2 ^ 64 := by
    calc b.toNat * 2 ^ k < 2 ^ 8 * 2 ^ k := Nat.mul_lt_mul_of_pos_right b.isLt (Nat.two_pow_pos k)
      _ = 2 ^ (8 + k) := (Nat.pow_add 2 8 k).symm
      _ ≤ 2 ^ 64 := Nat.pow_le_pow_right (by decide) (by omega)
  simp only [dataInsert, addrInsert, BitVec.toNat_or, BitVec.toNat_ushiftRight, BitVec.toNat_shiftLeft,
    BitVec.toNat_setWidth, Nat.add_sub_cancel, Nat.shiftRight_eq_div_pow, Nat.shiftLeft_eq]
  rw [Nat.mod_eq_of_lt (b.isLt.trans (by decide)), Nat.mod_eq_of_lt htop, Nat.or_comm, Nat.mul_comm,
    ← Nat.two_pow_add_eq_or_of_lt hlow, Nat.add_comm]

/-- The same of a sequence of insertions. -/
theorem toNat_foldl_dataInsert {d : Nat} (hd : 8 ≤ d) (h64 : d ≤ 64) (bytes : List Byte) {v : Data}
    (hv : v.toNat < 2 ^ d) : (bytes.foldl (fun r b => dataInsert d b r) v).toNat =
      bytes.foldl (fun r b => addrInsert d b r) v.toNat := by
  induction bytes generalizing v with
  | nil => rfl
  | cons b bytes ih =>
    rw [List.foldl_cons, List.foldl_cons, ih (dataInsert_lt hd h64 b hv), toNat_dataInsert hd h64 b hv]

/-- Settles O9: a data register is filled as an address register is. -/
theorem dataBytesAssemble : Obligations.DataBytesAssemble := by
  intro w d v hw hd hv
  obtain ⟨-, -, hwd, hpos, hle⟩ := widths_wf hw
  rw [hwd] at hd hv ⊢
  apply BitVec.eq_of_toNat_eq
  rw [toNat_foldl_dataInsert (by omega) (by omega) _ hv, foldl_addrInsert_bytesOfNat hd hv]

end Sys2Proof
namespace Sys2Proof.Machine

/-! ### A step and the command on the bus -/

/-- Settles O10: a step and a command are cycles in which both ends sample a byte, here the same one. -/
theorem stepRunsTheCommandOnTheBus : Obligations.StepRunsTheCommandOnTheBus := by
  refine ⟨fun s i h _ => ?_, fun s hs _ => step_live hs⟩
  rw [step_eq_cycle, exec_eq_cycle, (decode_singleton_iff s.bus i).mp h]

/-- A command that a step recognises is the one it executes. -/
theorem step_of_command {s : State} {i : Instr} (h : s.command? = some i) : step s = exec i s := by
  simp only [step, h]

/-- The cycle of a command placed after reset is live: only the end that sends it drives. -/
theorem live_placed_after_reset (i : Instr) : (State.reset.withFetchWord 8 i.byte.toNat).live := by
  cases i <;> decide

theorem command_placed_after_reset (i : Instr) :
    (State.reset.withFetchWord 8 i.byte.toNat).command? = some i := by
  cases i <;> decide

/-- Settles O12: a placed command is recognised, and the live cycle completes it. -/
theorem placedCommandRunsAfterReset : Obligations.PlacedCommandRunsAfterReset := by
  intro i
  have hexec := exec_live (live_placed_after_reset i) i
  refine ⟨?_, command_placed_after_reset i, _, (step_of_command (command_placed_after_reset i)).trans hexec, hexec⟩
  cases i <;> decide

/-! ### Bytes that nobody waits for -/

/-- A byte that opens no frame leaves an idle peripheral at rest (R104, R193). -/
theorem PeriphRegs.stepIdle_of_ne {b : Byte} (hr : b ≠ encodeRequest .read) (hw : b ≠ encodeRequest .write)
    (w : Widths) (r : PeriphRegs) : r.stepIdle w b = r.rest := by
  rw [PeriphRegs.stepIdle, if_neg hw, if_neg hr]

/-- A byte that is not the expected acknowledgment is not one (41_codec.md R142). -/
theorem isAck_of_ne {b : Byte} {dir : Direction} (h : b ≠ encodeAck dir) : isAck b dir = false :=
  beq_false_of_ne h

/-- Settles O18: each receiving state's own rule for a byte it does not expect. -/
theorem unrecognisedByteIsNoOp : Obligations.UnrecognisedByteIsNoOp := by
  intro s hs
  refine ⟨_, step_live hs, fun hidle hr hw => ?_, fun hwait hb => ?_, fun hwait hb => ?_⟩
  · rw [State.edgeWith_periph, State.periphNext]
    cases s.pAdv with
    | true => exact .inr ((PeriphRegs.next_idle hidle ..).trans (PeriphRegs.stepIdle_of_ne hr hw ..))
    | false => exact .inl rfl
  · rw [State.edgeWith_host, State.hostNext, HostRegs.next_writeAck _ _ _ _ hwait, isAck_of_ne hb]
    exact ite_self _
  · rw [State.edgeWith_host, State.hostNext, HostRegs.next_readAck _ _ _ _ hwait, isAck_of_ne hb]
    exact ite_self _

/-- Outside the states that receive, the host does not look at the inbound byte (R106). -/
theorem HostRegs.next_byte_irrelevant {h : HostRegs} (e : h.hstate ∉ [HState.writeAck, .readAck, .readData])
    (w : Widths) (tick : Bool) (p : Pins) (b c : Byte) : h.next w tick p b = h.next w tick p c := by
  unfold HostRegs.next HostRegs.atTick
  cases hstate : h.hstate with
  | writeAck | readAck | readData => simp [hstate] at e
  | idle | writeCmd | writeAddr | writeSel | writeData | readCmd | readAddr | wishboneAck => rfl

/-- Outside the states that receive, the peripheral does not look at the inbound byte (R106). -/
theorem PeriphRegs.advance_byte_irrelevant {r : PeriphRegs}
    (e : r.pstate ∉ [PState.idle, .writeAddr, .readAddr, .writeSel, .writeData]) (w : Widths) (pAdv : Bool)
    (b c : Byte) (ack : Bool) (q : Data) : r.advance w pAdv b ack q = r.advance w pAdv c ack q := by
  unfold PeriphRegs.advance PeriphRegs.next
  cases pstate : r.pstate with
  | idle | writeAddr | readAddr | writeSel | writeData => simp [pstate] at e
  | writeWishbone | writeAck | readWishbone | readAck | readData => rfl

/-- Settles O19: neither controller's next registers depend on the byte. -/
theorem inboundByteIgnoredOutsideReceivingStates : Obligations.InboundByteIgnoredOutsideReceivingStates := by
  refine ⟨fun s hs => ⟨_, step_live hs, fun hh => ?_, fun hr => ?_⟩, fun h p b c hh => ?_,
    fun w rst pAdv b c ack q r hr => ?_, fun s hh hr i => ?_⟩
  · exact ⟨fun b => HostRegs.next_byte_irrelevant hh ..,
      fun i => ⟨_, exec_live hs i, HostRegs.next_byte_irrelevant hh ..⟩⟩
  · exact ⟨fun b => PeriphRegs.advance_byte_irrelevant hr ..,
      fun i => ⟨_, exec_live hs i, PeriphRegs.advance_byte_irrelevant hr ..⟩⟩
  · rw [HostSide.step, HostSide.step, HostSide.edge, HostRegs.next_byte_irrelevant hh _ _ _ b c]
    rfl
  · rw [PeriphRegs.step, PeriphRegs.step, PeriphRegs.advance_byte_irrelevant hr _ _ b c]
  · have hhost : s.hostNext i.byte = s.hostNext s.bus := HostRegs.next_byte_irrelevant hh ..
    have hperiph : s.periphNext i.byte = s.periphNext s.bus := PeriphRegs.advance_byte_irrelevant hr ..
    rw [exec_eq_cycle, step_eq_cycle, State.edgeWith, hhost, hperiph, State.edgeWith]

end Sys2Proof.Machine
end

section
/-! PROOFS. The strobe generator from a tick of its undisturbed train (spec/40_strobe.md R123, R126 to R128). -/

namespace Sys2Proof.Machine

/-! ### One tick and the next -/

/-- No pulse follows a pulse, whatever is written to the divisor (R123, R127). -/
theorem StrobeRegs.raw_next_of_raw {v : StrobeVariant} {g : StrobeRegs} {c : ConfigRegs} (h : g.raw v c = true)
    (c' : ConfigRegs) : (g.next v c).raw v c' = false := by
  cases v with
  | tapEdge =>
    have htap : g.tap c = true := (Bool.and_eq_true_iff.mp h).1
    simp only [StrobeRegs.raw, StrobeRegs.next, htap, Bool.not_true, Bool.and_false]
  | modN =>
    have hcd : g.cd = 0 := beq_iff_eq.mp h
    have hreload : ∀ d : BitVec 3, BitVec.ofNat 8 (2 ^ (d.toNat + 1) - 1) ≠ 0 := by decide
    simp only [StrobeRegs.raw, StrobeRegs.next, hcd, if_true]
    exact beq_false_of_ne (hreload c.cfgDiv)

theorem ConfigRegs.period_eq (c : ConfigRegs) : c.period = 2 * 2 ^ c.cfgDiv.toNat := Nat.pow_succ'

theorem ConfigRegs.period_dvd (c : ConfigRegs) : c.period ∣ 256 :=
  Nat.pow_dvd_pow 2 (by omega : c.cfgDiv.toNat + 1 ≤ 8)

/-! ### TapEdge -/

/-- The counter of TapEdge after `n` cycles (R121). -/
theorem StrobeRegs.ctr_after_tapEdge (g : StrobeRegs) (c : ConfigRegs) (n : Nat) :
    (StrobeRegs.after .tapEdge c n g).ctr = g.ctr + BitVec.ofNat 8 n := by
  induction n with
  | zero => simp [StrobeRegs.after]
  | succ n ih =>
    rw [StrobeRegs.after_succ, BitVec.ofNat_add, ← BitVec.add_assoc, ← ih]
    rfl

/-- From a tick on, the selected bit is 1 for half a period and 0 for the next half. -/
theorem StrobeRegs.tap_after_onTick {g : StrobeRegs} {c : ConfigRegs} (h : g.onTick .tapEdge c = true) (n : Nat) :
    (StrobeRegs.after .tapEdge c n g).tap c = decide (n / 2 ^ c.cfgDiv.toNat % 2 = 0) := by
  simp only [StrobeRegs.onTick, Bool.and_eq_true, beq_iff_eq, ConfigRegs.period_eq] at h
  obtain ⟨hctr, -⟩ := h
  have hdiv : c.cfgDiv.toNat < 8 := c.cfgDiv.isLt
  have hquot : (g.ctr.toNat + n) / 2 ^ c.cfgDiv.toNat =
      2 * (g.ctr.toNat / (2 * 2 ^ c.cfgDiv.toNat)) + 1 + n / 2 ^ c.cfgDiv.toNat := by
    have hpos : 0 < 2 ^ c.cfgDiv.toNat := Nat.two_pow_pos _
    generalize 2 ^ c.cfgDiv.toNat = half at *
    have hsplit : g.ctr.toNat + n = n + (2 * (g.ctr.toNat / (2 * half)) + 1) * half := by
      have := Nat.div_add_mod g.ctr.toNat (2 * half)
      rw [hctr] at this
      linarith
    rw [hsplit, Nat.add_mul_div_right _ _ hpos, Nat.add_comm]
  rw [StrobeRegs.tap, StrobeRegs.ctr_after_tapEdge, ← BitVec.testBit_toNat, BitVec.toNat_add, BitVec.toNat_ofNat,
    Nat.add_mod_mod, Nat.testBit_mod_two_pow, Nat.testBit_eq_decide_div_mod_eq, hquot]
  simp only [hdiv, decide_true, Bool.true_and, decide_eq_decide]
  omega

/-- The last cycle before a multiple of two halves is the only one that ends an odd half. -/
theorem odd_half_ends_iff (half n : Nat) :
    ((n + 1) / half % 2 = 0 ∧ n / half % 2 ≠ 0) ↔ (n + 1) % (2 * half) = 0 := by
  rw [Nat.mul_comm 2 half, Nat.mod_mul]
  by_cases hd : half ∣ n + 1
  · have hpos : half ≠ 0 := by rintro rfl; simp at hd
    rw [Nat.succ_div_of_dvd hd, Nat.mod_eq_zero_of_dvd hd, Nat.zero_add, Nat.mul_eq_zero, or_iff_right hpos]
    omega
  · have hmod : (n + 1) % half ≠ 0 := mt Nat.dvd_of_mod_eq_zero hd
    rw [Nat.succ_div_of_not_dvd hd]
    omega

/-- TapEdge pulses at the end of each whole period (R123, R126). -/
theorem StrobeRegs.raw_after_tapEdge {g : StrobeRegs} {c : ConfigRegs} (h : g.onTick .tapEdge c = true) (n : Nat) :
    (StrobeRegs.after .tapEdge c n g).raw .tapEdge c = decide (n % c.period = 0) := by
  cases n with
  | zero =>
    have hprev : g.prev = false := by simpa using (Bool.and_eq_true_iff.mp h).2
    have htap : g.tap c = true := by simpa [StrobeRegs.after] using StrobeRegs.tap_after_onTick h 0
    simp [StrobeRegs.after, StrobeRegs.raw, htap, hprev]
  | succ n =>
    have hprev : (StrobeRegs.after .tapEdge c (n + 1) g).prev = (StrobeRegs.after .tapEdge c n g).tap c := by
      rw [StrobeRegs.after_succ]
      rfl
    rw [StrobeRegs.raw, hprev, StrobeRegs.tap_after_onTick h, StrobeRegs.tap_after_onTick h, ConfigRegs.period_eq,
      ← decide_not, ← Bool.decide_and, decide_eq_decide]
    exact odd_half_ends_iff ..

/-! ### ModN -/

theorem StrobeRegs.cd_eq_zero_iff (g : StrobeRegs) : g.cd = 0 ↔ g.cd.toNat = 0 := BitVec.toNat_inj.symm

/-- The countdown of ModN reloads at 0 (R127). -/
theorem StrobeRegs.toNat_cd_next_modN (g : StrobeRegs) (c : ConfigRegs) :
    (g.next .modN c).cd.toNat = if g.cd.toNat = 0 then c.period - 1 else g.cd.toNat - 1 := by
  have hfits := Nat.le_of_dvd (by decide) c.period_dvd
  have hreload : (modNReload c).toNat = c.period - 1 := by
    rw [modNReload, BitVec.toNat_ofNat, ← ConfigRegs.period, Nat.mod_eq_of_lt (by omega)]
  simp only [StrobeRegs.next, StrobeRegs.cd_eq_zero_iff]
  split
  · exact hreload
  · bv_omega

/-- The countdown of ModN, `n` cycles after a tick, reaches 0 where the next whole period ends (R127). -/
theorem StrobeRegs.cd_after_onTick {g : StrobeRegs} {c : ConfigRegs} (h : g.onTick .modN c = true) (n : Nat) :
    (StrobeRegs.after .modN c n g).cd.toNat < c.period ∧
      c.period ∣ (StrobeRegs.after .modN c n g).cd.toNat + n := by
  have hpos : 0 < c.period := Nat.two_pow_pos _
  induction n with
  | zero =>
    have hcd : g.cd.toNat = 0 := (g.cd_eq_zero_iff).mp (beq_iff_eq.mp h)
    rw [StrobeRegs.after, hcd]
    exact ⟨hpos, dvd_zero _⟩
  | succ n ih =>
    obtain ⟨hlt, hdvd⟩ := ih
    rw [StrobeRegs.after_succ, StrobeRegs.toNat_cd_next_modN]
    split
    · rename_i hcd
      rw [hcd, Nat.zero_add] at hdvd
      rw [show c.period - 1 + (n + 1) = n + c.period by omega]
      exact ⟨by omega, Nat.dvd_add_self_right.mpr hdvd⟩
    · rename_i hcd
      rw [show (StrobeRegs.after .modN c n g).cd.toNat - 1 + (n + 1) = (StrobeRegs.after .modN c n g).cd.toNat + n by
        omega]
      exact ⟨by omega, hdvd⟩

/-- ModN pulses at the end of each whole period (R127). -/
theorem StrobeRegs.raw_after_modN {g : StrobeRegs} {c : ConfigRegs} (h : g.onTick .modN c = true) (n : Nat) :
    (StrobeRegs.after .modN c n g).raw .modN c = decide (n % c.period = 0) := by
  obtain ⟨hlt, hdvd⟩ := StrobeRegs.cd_after_onTick h n
  rw [StrobeRegs.raw, beq_eq_decide, decide_eq_decide, StrobeRegs.cd_eq_zero_iff,
    ← Nat.dvd_iff_mod_eq_zero]
  constructor
  · intro h0
    rwa [h0, Nat.zero_add] at hdvd
  · exact fun hn => Nat.eq_zero_of_dvd_of_lt ((Nat.dvd_add_left hn).mp hdvd) hlt

/-- From a tick of the undisturbed train on, a pulse comes once a period (R128). -/
theorem StrobeRegs.raw_after_onTick {v : StrobeVariant} {g : StrobeRegs} {c : ConfigRegs} (h : g.onTick v c = true)
    (n : Nat) : (StrobeRegs.after v c n g).raw v c = decide (n % c.period = 0) := by
  cases v with
  | tapEdge => exact StrobeRegs.raw_after_tapEdge h n
  | modN => exact StrobeRegs.raw_after_modN h n

end Sys2Proof.Machine
end

section
/-! PROOFS. A cycle of a link in step (spec/45_link_and_transactions.md R254): each end drives the output byte of its
state (R167, R204), the two phases stay paired, and the ends never drive together. -/

namespace Sys2Proof.Machine

/-! ### Output bytes -/

/-- The states that receive keep the output byte at zero (R167). -/
theorem HostRegs.hout_of_receiving {h : HostRegs} (hh : h.outputFits = true)
    (e : h.hstate ∈ [HState.writeAck, .readAck, .readData]) : h.hout = 0x00 := by
  simp only [List.mem_cons, List.not_mem_nil, or_false] at e
  obtain e | e | e := e <;> simpa [HostRegs.outputFits, e] using hh

theorem HostRegs.outputFits_of_zero {h : HostRegs} (hout : h.hout = 0x00)
    (e : h.hstate ∉ [HState.writeCmd, .readCmd]) : h.outputFits = true := by
  unfold HostRegs.outputFits
  split <;> simp_all

theorem HostRegs.outputFits_of_payload {h : HostRegs}
    (e : h.hstate ∈ [HState.writeAddr, .writeSel, .writeData, .readAddr]) : h.outputFits = true := by
  unfold HostRegs.outputFits
  split <;> simp_all

/-- The host's output byte stays that of its state (R167). -/
theorem HostRegs.outputFits_atTick {h : HostRegs} (hh : h.outputFits = true) (w : Widths) (b : Byte) :
    (h.atTick w b).outputFits = true := by
  unfold HostRegs.atTick
  cases e : h.hstate with
  | idle | wishboneAck => exact hh
  | writeCmd | readCmd | writeSel => rfl
  | writeAddr | readAddr | writeData =>
    dsimp only [HostRegs.stepWriteAddr, HostRegs.stepReadAddr, HostRegs.stepWriteData]
    split
    · exact HostRegs.outputFits_of_payload (by simp [HostRegs.emitAddr, HostRegs.emitData, e])
    · rfl
  | writeAck | readAck =>
    have hout := HostRegs.hout_of_receiving hh (by simp [e])
    dsimp only
    split
    · exact HostRegs.outputFits_of_zero hout (by simp [HostRegs.takeWriteAck, HostRegs.takeReadAck])
    · exact hh
  | readData =>
    have hout := HostRegs.hout_of_receiving hh (by simp [e])
    dsimp only [HostRegs.stepReadData]
    split
    · exact HostRegs.outputFits_of_zero hout (by simp)
    · exact HostRegs.outputFits_of_zero hout (by simp [e])

theorem HostRegs.outputFits_stepIdle {h : HostRegs} (e : h.hstate = .idle) (w : Widths) (tick : Bool) (p : Pins) :
    (h.stepIdle w tick p).outputFits = true := by
  unfold HostRegs.stepIdle
  split
  · rfl
  · split
    · rfl
    · exact HostRegs.outputFits_of_zero rfl (by simp [HostRegs.rest, e])

theorem HostRegs.outputFits_next {h : HostRegs} (hh : h.outputFits = true) (w : Widths) (tick : Bool) (p : Pins)
    (b : Byte) : (h.next w tick p b).outputFits = true := by
  unfold HostRegs.next
  split
  · rename_i e
    exact HostRegs.outputFits_stepIdle e ..
  · rename_i e
    simpa [HostRegs.outputFits, HostRegs.finish, e] using hh
  · split
    · exact HostRegs.outputFits_atTick hh ..
    · exact hh

/-- Outside the states that drive, the peripheral's output byte is zero (D21). -/
theorem PeriphRegs.pout_of_silent {r : PeriphRegs} (hr : r.outputFits = true) (e : r.oe = false) : r.pout = 0x00 := by
  unfold PeriphRegs.oe at e
  unfold PeriphRegs.outputFits at hr
  split at e <;> simp_all

theorem PeriphRegs.outputFits_of_zero {r : PeriphRegs} (hout : r.pout = 0x00) (e : r.oe = false) :
    r.outputFits = true := by
  unfold PeriphRegs.oe at e
  unfold PeriphRegs.outputFits
  split <;> simp_all

/-- The peripheral's output byte stays that of its state (R204). -/
theorem PeriphRegs.outputFits_next {r : PeriphRegs} (hr : r.outputFits = true) (w : Widths) (b : Byte) (ack : Bool)
    (q : Data) : (r.next w b ack q).outputFits = true := by
  unfold PeriphRegs.next
  cases e : r.pstate with
  | idle =>
    dsimp only [PeriphRegs.stepIdle]
    split
    · rfl
    · split
      · rfl
      · exact PeriphRegs.outputFits_of_zero rfl (by simp [PeriphRegs.rest, PeriphRegs.oe, e])
  | writeAddr | readAddr =>
    have hout := PeriphRegs.pout_of_silent hr (by simp [PeriphRegs.oe, e])
    dsimp only [PeriphRegs.stepAddr]
    split
    · exact PeriphRegs.outputFits_of_zero hout rfl
    · exact PeriphRegs.outputFits_of_zero hout (by simp [PeriphRegs.oe, e])
  | writeSel =>
    have hout := PeriphRegs.pout_of_silent hr (by simp [PeriphRegs.oe, e])
    exact PeriphRegs.outputFits_of_zero hout rfl
  | writeData =>
    have hout := PeriphRegs.pout_of_silent hr (by simp [PeriphRegs.oe, e])
    dsimp only [PeriphRegs.stepWriteData]
    split
    · exact PeriphRegs.outputFits_of_zero hout rfl
    · exact PeriphRegs.outputFits_of_zero hout (by simp [PeriphRegs.oe, e])
  | writeWishbone | readWishbone =>
    dsimp only
    split
    · rfl
    · exact hr
  | writeAck | readAck => rfl
  | readData =>
    dsimp only [PeriphRegs.stepReadData]
    split
    · simp [PeriphRegs.outputFits, PeriphRegs.emitData, e]
    · rfl

theorem PeriphRegs.outputFits_advance {r : PeriphRegs} (hr : r.outputFits = true) (w : Widths) (pAdv : Bool) (b : Byte)
    (ack : Bool) (q : Data) : (r.advance w pAdv b ack q).outputFits = true := by
  cases pAdv with
  | true => exact PeriphRegs.outputFits_next hr ..
  | false => exact hr

/-- No clock edge spoils the output bytes, whatever byte the bus carries. -/
theorem State.outputsFit_edgeWith {s : State} (h : s.outputsFit = true) (b : Byte) :
    (s.edgeWith b).outputsFit = true := by
  obtain ⟨hh, hr⟩ := Bool.and_eq_true_iff.mp h
  exact Bool.and_eq_true_iff.mpr ⟨HostRegs.outputFits_next hh .., PeriphRegs.outputFits_advance hr ..⟩

/-! ### Phases -/

/-- The pairs of phases of `State.phasesAgree`, with what each asks of the registers (R254). -/
inductive State.Phase (s : State) : Prop
  | idle (hh : s.host.hstate = .idle) (hr : s.periph.pstate = .idle)
  | writeCmd (hh : s.host.hstate = .writeCmd) (hr : s.periph.pstate = .idle)
  | readCmd (hh : s.host.hstate = .readCmd) (hr : s.periph.pstate = .idle)
  | writeAddr (hh : s.host.hstate = .writeAddr) (hr : s.periph.pstate = .writeAddr)
    (hc : s.host.hcount = s.periph.pcount)
  | readAddr (hh : s.host.hstate = .readAddr) (hr : s.periph.pstate = .readAddr)
    (hc : s.host.hcount = s.periph.pcount)
  | writeSel (hh : s.host.hstate = .writeSel) (hr : s.periph.pstate = .writeSel)
  | writeData (hh : s.host.hstate = .writeData) (hr : s.periph.pstate = .writeData)
    (hc : s.host.hcount = s.periph.pcount)
  | writeAsked (hh : s.host.hstate = .writeAck) (hr : s.periph.pstate = .writeWishbone)
  | writeAnswered (hh : s.host.hstate = .writeAck) (hr : s.periph.pstate = .writeAck)
  | readAsked (hh : s.host.hstate = .readAck) (hr : s.periph.pstate = .readWishbone)
  | readAnswered (hh : s.host.hstate = .readAck) (hr : s.periph.pstate = .readAck)
  | readData (hh : s.host.hstate = .readData) (hr : s.periph.pstate = .readData)
    (hc : s.host.hcount = s.periph.pcount)
  | completion (hh : s.host.hstate = .wishboneAck) (hr : s.periph.pstate = .idle)
    (hraw : s.gen.raw s.params.strobeVariant s.cfg = false)

theorem State.phase {s : State} (h : s.phasesAgree = true) : s.Phase := by
  unfold State.phasesAgree at h
  split at h
  · exact .idle ‹_› ‹_›
  · exact .writeCmd ‹_› ‹_›
  · exact .readCmd ‹_› ‹_›
  · exact .writeAddr ‹_› ‹_› (beq_iff_eq.mp h)
  · exact .readAddr ‹_› ‹_› (beq_iff_eq.mp h)
  · exact .writeSel ‹_› ‹_›
  · exact .writeData ‹_› ‹_› (beq_iff_eq.mp h)
  · exact .writeAsked ‹_› ‹_›
  · exact .writeAnswered ‹_› ‹_›
  · exact .readAsked ‹_› ‹_›
  · exact .readAnswered ‹_› ‹_›
  · exact .readData ‹_› ‹_› (beq_iff_eq.mp h)
  · exact .completion ‹_› ‹_› (by simpa using h)
  · cases h

/-- Two ends in step never drive together (R254). -/
theorem State.not_both_drive {s : State} (h : s.phasesAgree = true) : ¬ (s.hOe = true ∧ s.pOe = true) := by
  unfold State.hOe State.pOe HostRegs.oe PeriphRegs.oe
  cases State.phase h <;> simp [*]

/-- Where the host drives, both ends sample its output byte (R252). -/
theorem State.bus_of_host {s : State} (h : s.phasesAgree = true) (hoe : s.hOe = true) :
    s.driver = .host ∧ s.bus = s.host.hout := by
  have hpoe : s.pOe = false := by simpa [hoe] using State.not_both_drive h
  have hd : s.driver = .host := by simp [State.driver, hoe, hpoe]
  exact ⟨hd, by simp [State.bus, hd]⟩

/-- Where the peripheral drives, both ends sample its output byte (R252). -/
theorem State.bus_of_periph {s : State} (h : s.phasesAgree = true) (hpoe : s.pOe = true) :
    s.driver = .periph ∧ s.bus = s.periph.pout := by
  have hoe : s.hOe = false := by simpa [hpoe] using State.not_both_drive h
  have hd : s.driver = .periph := by simp [State.driver, hoe, hpoe]
  exact ⟨hd, by simp [State.bus, hd]⟩

/-- Where neither drives, the bus floats (R252). -/
theorem State.bus_of_nobody {s : State} (hoe : s.hOe = false) (hpoe : s.pOe = false) :
    s.driver = .nobody ∧ s.bus = s.floatByte := by
  have hd : s.driver = .nobody := by simp [State.driver, hoe, hpoe]
  exact ⟨hd, by simp [State.bus, hd]⟩

/-! ### The bus in each phase -/

/-- A host in IDLE or in a command state puts the byte of that state on the bus (R167). -/
theorem State.bus_of_hostCmd {s : State} (hs : s.inSync) {b : Byte}
    (h : (s.host.hstate = .idle ∧ b = 0x00) ∨ (s.host.hstate = .writeCmd ∧ b = 0x03) ∨
      (s.host.hstate = .readCmd ∧ b = 0x02)) : s.bus = b := by
  obtain ⟨-, -, hout, hph⟩ := hs
  have hhout : s.host.outputFits = true := (Bool.and_eq_true_iff.mp hout).1
  obtain ⟨e, rfl⟩ | ⟨e, rfl⟩ | ⟨e, rfl⟩ := h
  all_goals
    have hoe : s.hOe = true := by simp [State.hOe, HostRegs.oe, e]
    rw [(State.bus_of_host hph hoe).2]
    simpa [HostRegs.outputFits, e] using hhout

/-- A peripheral in an acknowledging state puts the byte of that state on the bus (R204). -/
theorem State.bus_of_periphAck {s : State} (hs : s.inSync) {b : Byte}
    (h : (s.periph.pstate = .writeAck ∧ b = encodeAck .write) ∨ (s.periph.pstate = .readAck ∧ b = encodeAck .read)) :
    s.bus = b := by
  obtain ⟨hatt, -, hout, hph⟩ := hs
  have hpout : s.periph.outputFits = true := (Bool.and_eq_true_iff.mp hout).2
  obtain ⟨e, rfl⟩ | ⟨e, rfl⟩ := h
  all_goals
    have hpoe : s.pOe = true := by simp [State.pOe, PeriphRegs.oe, e, hatt]
    rw [(State.bus_of_periph hph hpoe).2]
    simpa [PeriphRegs.outputFits, e, encodeAck, Instr.byte] using hpout

/-- While the responder is asked, a harmless bus acknowledges nothing (R254). -/
theorem State.bus_not_ack {s : State} (hf : s.floatHarmless)
    (h : (s.host.hstate = .writeAck ∧ s.periph.pstate = .writeWishbone) ∨
      (s.host.hstate = .readAck ∧ s.periph.pstate = .readWishbone)) (dir : Direction) : isAck s.bus dir = false := by
  have hoe : s.hOe = false := by
    obtain ⟨e, -⟩ | ⟨e, -⟩ := h <;> simp [State.hOe, HostRegs.oe, e]
  have hpoe : s.pOe = false := by
    obtain ⟨-, e⟩ | ⟨-, e⟩ := h <;> simp [State.pOe, PeriphRegs.oe, e]
  rw [(State.bus_of_nobody hoe hpoe).2]
  cases dir with
  | read => exact isAck_of_ne hf.1
  | write => exact isAck_of_ne hf.2

theorem HostRegs.hstate_stepIdle {h : HostRegs} (e : h.hstate = .idle) (w : Widths) (tick : Bool) (p : Pins) :
    (h.stepIdle w tick p).hstate ∈ [HState.idle, .writeCmd, .readCmd] := by
  unfold HostRegs.stepIdle
  split
  · simp [HostRegs.acceptWrite]
  · split
    · simp [HostRegs.acceptRead]
    · simp [HostRegs.rest, e]

/-- A tick takes the two ends of a link in step to the next pair of phases (R254). -/
theorem State.phasesAgree_tick {s : State} (hs : s.inSync) (hf : s.floatHarmless) (ht : s.strobe = true) :
    (s.edgeWith s.bus).phasesAgree = true := by
  have ⟨hatt, hw, _, hph⟩ := hs
  have hadv : s.pAdv = true := s.pAdv_iff.mpr ⟨ht, hatt⟩
  have hraw : (s.gen.next s.params.strobeVariant s.cfg).raw s.params.strobeVariant (s.cfg.next s.pins) = false :=
    StrobeRegs.raw_next_of_raw (StrobeRegs.raw_of_strobe ht) _
  simp only [State.phasesAgree, State.edgeWith_host, State.edgeWith_periph, State.hostNext, State.periphNext, ht, hadv,
    PeriphRegs.advance_true, State.edgeWith_gen, State.edgeWith_params, State.edgeWith_cfg, hraw]
  cases State.phase hph with
  | idle hh hr =>
    rw [HostRegs.next_idle _ _ _ _ hh, PeriphRegs.next_idle hr, State.bus_of_hostCmd hs (.inl ⟨hh, rfl⟩),
      PeriphRegs.stepIdle_of_ne (by decide) (by decide)]
    have := HostRegs.hstate_stepIdle hh s.params.hostWidths true s.pins
    generalize (s.host.stepIdle s.params.hostWidths true s.pins).hstate = next at *
    simp only [List.mem_cons, List.not_mem_nil, or_false] at this
    obtain rfl | rfl | rfl := this <;> simp [PeriphRegs.rest, hr]
  | writeCmd hh hr =>
    rw [HostRegs.next_writeCmd _ _ _ _ hh, PeriphRegs.next_idle hr, State.bus_of_hostCmd hs (.inr (.inl ⟨hh, rfl⟩))]
    simp [HostRegs.startAddr, PeriphRegs.stepIdle, encodeRequest, Instr.byte, PeriphRegs.openFrame, hw]
  | readCmd hh hr =>
    rw [HostRegs.next_readCmd _ _ _ _ hh, PeriphRegs.next_idle hr, State.bus_of_hostCmd hs (.inr (.inr ⟨hh, rfl⟩))]
    simp [HostRegs.startAddr, PeriphRegs.stepIdle, encodeRequest, Instr.byte, PeriphRegs.openFrame, hw]
  | writeAddr hh hr hc =>
    rw [HostRegs.next_writeAddr _ _ _ _ hh, PeriphRegs.next_writeAddr _ _ _ _ hr]
    by_cases h0 : s.periph.pcount = 0 <;>
      simp [HostRegs.stepWriteAddr, PeriphRegs.stepAddr, hc, h0, HostRegs.emitAddr, hh, hr]
  | readAddr hh hr hc =>
    rw [HostRegs.next_readAddr _ _ _ _ hh, PeriphRegs.next_readAddr _ _ _ _ hr]
    by_cases h0 : s.periph.pcount = 0 <;>
      simp [HostRegs.stepReadAddr, PeriphRegs.stepAddr, hc, h0, HostRegs.emitAddr, hh, hr]
  | writeSel hh hr =>
    rw [HostRegs.next_writeSel _ _ _ _ hh, PeriphRegs.next_writeSel _ _ _ _ hr]
    simp [HostRegs.stepWriteSel, PeriphRegs.stepWriteSel, hw]
  | writeData hh hr hc =>
    rw [HostRegs.next_writeData _ _ _ _ hh, PeriphRegs.next_writeData _ _ _ _ hr]
    by_cases h0 : s.periph.pcount = 0 <;>
      simp [HostRegs.stepWriteData, PeriphRegs.stepWriteData, hc, h0, HostRegs.emitData, hh, hr]
  | writeAsked hh hr =>
    rw [HostRegs.next_writeAck _ _ _ _ hh, PeriphRegs.next_writeWishbone _ _ _ _ hr,
      State.bus_not_ack hf (.inl ⟨hh, hr⟩)]
    cases s.pins.rAck <;> simp [hh, hr, PeriphRegs.writeAcked]
  | writeAnswered hh hr =>
    rw [HostRegs.next_writeAck _ _ _ _ hh, PeriphRegs.next_writeAck _ _ _ _ hr,
      State.bus_of_periphAck hs (.inl ⟨hr, rfl⟩)]
    simp [HostRegs.takeWriteAck, PeriphRegs.close, isAck]
  | readAsked hh hr =>
    rw [HostRegs.next_readAck _ _ _ _ hh, PeriphRegs.next_readWishbone _ _ _ _ hr,
      State.bus_not_ack hf (.inr ⟨hh, hr⟩)]
    cases s.pins.rAck <;> simp [hh, hr, PeriphRegs.readAcked]
  | readAnswered hh hr =>
    rw [HostRegs.next_readAck _ _ _ _ hh, PeriphRegs.next_readAck _ _ _ _ hr,
      State.bus_of_periphAck hs (.inr ⟨hr, rfl⟩)]
    simp [HostRegs.takeReadAck, PeriphRegs.startData, isAck, hw]
  | readData hh hr hc =>
    rw [HostRegs.next_readData _ _ _ _ hh, PeriphRegs.next_readData _ _ _ _ hr]
    by_cases h0 : s.periph.pcount = 0 <;>
      simp [HostRegs.stepReadData, PeriphRegs.stepReadData, hc, h0, PeriphRegs.close, PeriphRegs.emitData, hh, hr]
  | completion _ _ hno => exact absurd (StrobeRegs.raw_of_strobe ht) (by simp [hno])

/-- Between ticks the two ends keep their phases, but for the host's completion cycle (R151, R165, R191). -/
theorem State.phasesAgree_between {s : State} (hph : s.phasesAgree = true) (ht : s.strobe = false) (b : Byte) :
    (s.edgeWith b).phasesAgree = true := by
  simp only [State.phasesAgree, State.edgeWith_host, State.edgeWith_periph,
    State.periphNext_hold (State.pAdv_of_not_strobe ht)]
  cases State.phase hph with
  | idle hh hr =>
    have hrest : s.hostNext b = s.host.rest := by
      rw [State.hostNext, HostRegs.next_idle _ _ _ _ hh, ht]
      rfl
    simp [hrest, HostRegs.rest, hh, hr]
  | completion hh hr =>
    rw [State.hostNext, HostRegs.next_wishboneAck _ _ _ _ hh]
    simp [HostRegs.finish, hr]
  | writeCmd hh hr | readCmd hh hr | writeAddr hh hr | readAddr hh hr | writeSel hh hr | writeData hh hr
  | writeAsked hh hr | writeAnswered hh hr | readAsked hh hr | readAnswered hh hr | readData hh hr =>
    rw [State.hostNext_hold ht (by simp [hh]) (by simp [hh])]
    simp [*]

/-- A clock edge keeps a link in step, provided the undriven bus does not read as an acknowledgment (R254). -/
theorem State.inSync_edgeWith {s : State} (hs : s.inSync) (hf : s.floatHarmless) : (s.edgeWith s.bus).inSync := by
  have ⟨hatt, hw, hout, hph⟩ := hs
  refine ⟨hatt, hw, State.outputsFit_edgeWith hout _, ?_⟩
  cases ht : s.strobe with
  | true => exact State.phasesAgree_tick hs hf ht
  | false => exact State.phasesAgree_between hph ht _

end Sys2Proof.Machine
end

section
/-! PROOFS. Frames on the wire (spec/45_link_and_transactions.md R253; spec/42_host.md R168; spec/43_peripheral.md R205):
from the tick that starts a frame, one end drives its bytes, one for each bus period. -/

namespace Sys2Proof.Machine

/-! ### What an end has still to send -/

/-- The bytes a sending host drives from this bus period on: the byte it drives now, and those its operand registers
hold. -/
def HostRegs.toSend (w : Widths) (h : HostRegs) : List Byte :=
  match h.hstate with
  | .writeCmd => h.hout :: (bytesOfNat w.na h.haddr ++ h.hsel :: bytesOfNat w.nd h.hdata.toNat)
  | .writeAddr => h.hout :: (bytesOfNat h.hcount h.haddr ++ h.hsel :: bytesOfNat w.nd h.hdata.toNat)
  | .writeSel => h.hout :: bytesOfNat w.nd h.hdata.toNat
  | .writeData => h.hout :: bytesOfNat h.hcount h.hdata.toNat
  | .readCmd => h.hout :: bytesOfNat w.na h.haddr
  | .readAddr => h.hout :: bytesOfNat h.hcount h.haddr
  | .idle | .writeAck | .readAck | .readData | .wishboneAck => []

/-- The bytes an answering peripheral drives from this bus period on. -/
def PeriphRegs.toSend (w : Widths) (r : PeriphRegs) : List Byte :=
  match r.pstate with
  | .writeAck => [r.pout]
  | .readAck => r.pout :: bytesOfNat w.nd r.pdata.toNat
  | .readData => r.pout :: bytesOfNat r.pcount r.pdata.toNat
  | .idle | .writeAddr | .writeSel | .writeData | .writeWishbone | .readAddr | .readWishbone => []

/-- The bytes one end has still to send. -/
def State.toSend (s : State) : Driver → List Byte
  | .host => s.host.toSend s.params.hostWidths
  | .periph => s.periph.toSend s.params.periphWidths
  | .nobody | .both => []

/-- A countdown that is not over has a byte to send, the lowest of the register. -/
theorem bytesOfNat_of_ne_zero {n : Nat} (h : n ≠ 0) (v : Nat) :
    bytesOfNat n v = addrByte v :: bytesOfNat (n - 1) (addrShift v) := by
  obtain ⟨n, rfl⟩ := Nat.exists_eq_succ_of_ne_zero h
  rfl

theorem bytesOfNat_data_of_ne_zero {n : Nat} (h : n ≠ 0) (v : Data) :
    bytesOfNat n v.toNat = dataByte v :: bytesOfNat (n - 1) (dataShift v).toNat := by
  rw [bytesOfNat_of_ne_zero h, addrByte, addrShift, BitVec.ofNat_toNat, dataShift, BitVec.toNat_ushiftRight,
    Nat.shiftRight_eq_div_pow]
  rfl

/-- The output byte of a sending end is the first of those it has to send. -/
theorem HostRegs.toSend_cons {w : Widths} {h : HostRegs} {b : Byte} {bs : List Byte} (e : h.toSend w = b :: bs) :
    h.oe = true ∧ h.hout = b := by
  unfold HostRegs.toSend at e
  unfold HostRegs.oe
  split at e <;> simp_all

theorem PeriphRegs.toSend_cons {w : Widths} {r : PeriphRegs} {b : Byte} {bs : List Byte} (e : r.toSend w = b :: bs) :
    r.oe = true ∧ r.pout = b := by
  unfold PeriphRegs.toSend at e
  unfold PeriphRegs.oe
  split at e <;> simp_all

/-- A host that sends a frame is neither idle nor completing. -/
theorem HostRegs.busy_of_toSend {w : Widths} {h : HostRegs} (e : h.toSend w ≠ []) :
    h.hstate ≠ .idle ∧ h.hstate ≠ .wishboneAck := by
  unfold HostRegs.toSend at e
  split at e <;> simp_all

/-- A tick takes one byte off what the host has to send (R154 to R159). -/
theorem HostRegs.toSend_next {w : Widths} (hw : w.wf = true) {h : HostRegs} (e : h.toSend w ≠ []) (p : Pins)
    (b : Byte) : (h.next w true p b).toSend w = (h.toSend w).tail := by
  obtain ⟨-, hna, -, hnd, -⟩ := widths_wf hw
  cases hstate : h.hstate with
  | idle | writeAck | readAck | readData | wishboneAck => simp [HostRegs.toSend, hstate] at e
  | writeCmd =>
    rw [HostRegs.next_writeCmd _ _ _ _ hstate]
    simp [HostRegs.toSend, HostRegs.startAddr, HostRegs.emitAddr, hstate, bytesOfNat_of_ne_zero hna.ne']
  | readCmd =>
    rw [HostRegs.next_readCmd _ _ _ _ hstate]
    simp [HostRegs.toSend, HostRegs.startAddr, HostRegs.emitAddr, hstate, bytesOfNat_of_ne_zero hna.ne']
  | writeSel =>
    rw [HostRegs.next_writeSel _ _ _ _ hstate]
    simp [HostRegs.toSend, HostRegs.stepWriteSel, HostRegs.emitData, hstate, bytesOfNat_data_of_ne_zero hnd.ne']
  | writeAddr =>
    rw [HostRegs.next_writeAddr _ _ _ _ hstate]
    by_cases hc : h.hcount = 0
    · simp [HostRegs.toSend, HostRegs.stepWriteAddr, hstate, hc, bytesOfNat]
    · simp [HostRegs.toSend, HostRegs.stepWriteAddr, HostRegs.emitAddr, hstate, hc, bytesOfNat_of_ne_zero hc]
  | readAddr =>
    rw [HostRegs.next_readAddr _ _ _ _ hstate]
    by_cases hc : h.hcount = 0
    · simp [HostRegs.toSend, HostRegs.stepReadAddr, hstate, hc, bytesOfNat]
    · simp [HostRegs.toSend, HostRegs.stepReadAddr, HostRegs.emitAddr, hstate, hc, bytesOfNat_of_ne_zero hc]
  | writeData =>
    rw [HostRegs.next_writeData _ _ _ _ hstate]
    by_cases hc : h.hcount = 0
    · simp [HostRegs.toSend, HostRegs.stepWriteData, hstate, hc, bytesOfNat]
    · simp [HostRegs.toSend, HostRegs.stepWriteData, HostRegs.emitData, hstate, hc, bytesOfNat_data_of_ne_zero hc]

/-- A peripheral cycle takes one byte off what the peripheral has to send (R199, R201, R202). -/
theorem PeriphRegs.toSend_next {w : Widths} (hw : w.wf = true) {r : PeriphRegs} (e : r.toSend w ≠ []) (b : Byte)
    (ack : Bool) (q : Data) : (r.next w b ack q).toSend w = (r.toSend w).tail := by
  obtain ⟨-, -, -, hnd, -⟩ := widths_wf hw
  cases hstate : r.pstate with
  | idle | writeAddr | writeSel | writeData | writeWishbone | readAddr | readWishbone =>
    simp [PeriphRegs.toSend, hstate] at e
  | writeAck =>
    rw [PeriphRegs.next_writeAck _ _ _ _ hstate]
    simp [PeriphRegs.toSend, PeriphRegs.close, hstate]
  | readAck =>
    rw [PeriphRegs.next_readAck _ _ _ _ hstate]
    simp [PeriphRegs.toSend, PeriphRegs.startData, PeriphRegs.emitData, hstate, bytesOfNat_data_of_ne_zero hnd.ne']
  | readData =>
    rw [PeriphRegs.next_readData _ _ _ _ hstate]
    by_cases hc : r.pcount = 0
    · simp [PeriphRegs.toSend, PeriphRegs.stepReadData, PeriphRegs.close, hstate, hc, bytesOfNat]
    · simp [PeriphRegs.toSend, PeriphRegs.stepReadData, PeriphRegs.emitData, hstate, hc, bytesOfNat_data_of_ne_zero hc]

/-! ### The sending end of a link in step -/

/-- The end that has bytes to send drives the first of them. -/
theorem State.driver_of_toSend {s : State} (hs : s.inSync) {who : Driver} {b : Byte} {bs : List Byte}
    (e : s.toSend who = b :: bs) : s.driver = who ∧ s.bus = b := by
  obtain ⟨hatt, -, -, hph⟩ := hs
  cases who with
  | host =>
    obtain ⟨hoe, rfl⟩ := HostRegs.toSend_cons e
    exact State.bus_of_host hph hoe
  | periph =>
    obtain ⟨hoe, rfl⟩ := PeriphRegs.toSend_cons e
    exact State.bus_of_periph hph (Bool.and_eq_true_iff.mpr ⟨hoe, hatt⟩)
  | nobody | both => cases e

/-- While an end sends, the host is neither idle nor completing. -/
theorem State.hostBusy_of_toSend {s : State} (hs : s.inSync) {who : Driver} (e : s.toSend who ≠ []) :
    s.host.hstate ≠ .idle ∧ s.host.hstate ≠ .wishboneAck := by
  obtain ⟨-, -, -, hph⟩ := hs
  cases who with
  | host => exact HostRegs.busy_of_toSend e
  | periph =>
    unfold State.toSend PeriphRegs.toSend at e
    cases State.phase hph <;> simp_all
  | nobody | both => exact absurd rfl e

/-- A tick takes one byte off what an end has to send. -/
theorem State.toSend_tick {s : State} (hp : refusalOf s.params = none) (hs : s.inSync) (ht : s.strobe = true)
    {who : Driver} (e : s.toSend who ≠ []) : (s.edgeWith s.bus).toSend who = (s.toSend who).tail := by
  obtain ⟨hatt, -⟩ := hs
  obtain ⟨hwh, hwp, -⟩ := refusalOf_none.mp hp
  have hadv : s.pAdv = true := s.pAdv_iff.mpr ⟨ht, hatt⟩
  cases who with
  | host =>
    rw [State.toSend, State.edgeWith_host, State.hostNext, ht]
    exact HostRegs.toSend_next hwh e ..
  | periph =>
    rw [State.toSend, State.edgeWith_periph, State.periphNext, hadv]
    exact PeriphRegs.toSend_next hwp e ..
  | nobody | both => exact absurd rfl e

/-- Between ticks a sending end keeps its bytes. -/
theorem State.toSend_between {s : State} (hs : s.inSync) (ht : s.strobe = false) {who : Driver}
    (e : s.toSend who ≠ []) : (s.edgeWith s.bus).toSend who = s.toSend who := by
  obtain ⟨h₁, h₂⟩ := State.hostBusy_of_toSend hs e
  cases who with
  | host => rw [State.toSend, State.edgeWith_host, State.hostNext_hold ht h₁ h₂]; rfl
  | periph => rw [State.toSend, State.edgeWith_periph, State.periphNext_hold (State.pAdv_of_not_strobe ht)]; rfl
  | nobody | both => rfl

/-! ### The end of a frame -/

/-- A host with one byte to send is in the last payload state of its request, its countdown over. -/
theorem HostRegs.last_of_toSend {w : Widths} (hw : w.wf = true) {h : HostRegs} {b : Byte} (e : h.toSend w = [b]) :
    (h.hstate = .writeData ∨ h.hstate = .readAddr) ∧ h.hcount = 0 := by
  obtain ⟨-, hna, -, hnd, -⟩ := widths_wf hw
  have hlen : (h.toSend w).length = 1 := by rw [e]; rfl
  unfold HostRegs.toSend at hlen
  split at hlen <;> simp_all

/-- A peripheral with one byte to send goes back to IDLE in its next cycle (R199, R202). -/
theorem PeriphRegs.last_of_toSend {w : Widths} (hw : w.wf = true) {r : PeriphRegs} {b : Byte} (e : r.toSend w = [b]) :
    r.pstate = .writeAck ∨ (r.pstate = .readData ∧ r.pcount = 0) := by
  obtain ⟨-, -, -, hnd, -⟩ := widths_wf hw
  have hlen : (r.toSend w).length = 1 := by rw [e]; rfl
  unfold PeriphRegs.toSend at hlen
  split at hlen <;> simp_all

/-- After its last byte the host releases the bus and waits for the answer, and the peripheral asks the responder. -/
theorem State.released_after_request {s : State} (hp : refusalOf s.params = none) (hs : s.inSync) (ht : s.strobe = true)
    {b : Byte} (e : s.toSend .host = [b]) : (s.edgeWith s.bus).hOe = false ∧ (s.edgeWith s.bus).pOe = false := by
  obtain ⟨hatt, -, -, hph⟩ := hs
  obtain ⟨hwh, -⟩ := refusalOf_none.mp hp
  obtain ⟨hstate, hc⟩ := HostRegs.last_of_toSend hwh e
  rw [State.hOe, State.pOe, State.edgeWith_host, State.edgeWith_periph, State.hostNext, State.periphNext, ht,
    s.pAdv_iff.mpr ⟨ht, hatt⟩, PeriphRegs.advance_true]
  cases State.phase hph with
  | writeData hh hr hcount =>
    rw [HostRegs.next_writeData _ _ _ _ hh, PeriphRegs.next_writeData _ _ _ _ hr]
    simp [HostRegs.stepWriteData, PeriphRegs.stepWriteData, hc, ← hcount, HostRegs.oe, PeriphRegs.oe]
  | readAddr hh hr hcount =>
    rw [HostRegs.next_readAddr _ _ _ _ hh, PeriphRegs.next_readAddr _ _ _ _ hr]
    simp [HostRegs.stepReadAddr, PeriphRegs.stepAddr, hc, ← hcount, HostRegs.oe, PeriphRegs.oe]
  | _ => simp_all

/-- After its last byte the peripheral releases the bus, and the host completes. -/
theorem State.released_after_answer {s : State} (hp : refusalOf s.params = none) (hs : s.inSync) (ht : s.strobe = true)
    {b : Byte} (e : s.toSend .periph = [b]) : (s.edgeWith s.bus).hOe = false ∧ (s.edgeWith s.bus).pOe = false := by
  have ⟨hatt, _, _, hph⟩ := hs
  obtain ⟨-, hwp, -⟩ := refusalOf_none.mp hp
  have hlast := PeriphRegs.last_of_toSend hwp e
  rw [State.hOe, State.pOe, State.edgeWith_host, State.edgeWith_periph, State.hostNext, State.periphNext, ht,
    s.pAdv_iff.mpr ⟨ht, hatt⟩, PeriphRegs.advance_true]
  cases State.phase hph with
  | writeAnswered hh hr =>
    rw [HostRegs.next_writeAck _ _ _ _ hh, PeriphRegs.next_writeAck _ _ _ _ hr,
      State.bus_of_periphAck hs (.inl ⟨hr, rfl⟩)]
    exact ⟨rfl, rfl⟩
  | readData hh hr hcount =>
    have hc : s.periph.pcount = 0 := by simpa [hr] using hlast
    rw [HostRegs.next_readData _ _ _ _ hh, PeriphRegs.next_readData _ _ _ _ hr]
    simp [HostRegs.stepReadData, PeriphRegs.stepReadData, hc, hcount, HostRegs.oe, PeriphRegs.oe, PeriphRegs.close]
  | _ => simp_all

/-- In the cycle after its last byte nobody drives. -/
theorem State.nobody_after_last {s : State} (hp : refusalOf s.params = none) (hs : s.inSync) (ht : s.strobe = true)
    {who : Driver} {b : Byte} (e : s.toSend who = [b]) : (s.edgeWith s.bus).driver = .nobody := by
  cases who with
  | host =>
    obtain ⟨hoe, hpoe⟩ := State.released_after_request hp hs ht e
    exact (State.bus_of_nobody hoe hpoe).1
  | periph =>
    obtain ⟨hoe, hpoe⟩ := State.released_after_answer hp hs ht e
    exact (State.bus_of_nobody hoe hpoe).1
  | nobody | both => cases e

end Sys2Proof.Machine
end

section
/-! PROOFS. Undisturbed runs (spec/45_link_and_transactions.md R253, R254): the states a link in step leads to while the
environment does not reset it or write its registers, and the frames they put on the wire (spec/30_encoding.md R94 to
R97). -/

namespace Sys2Proof.Machine

/-! ### Undisturbed cycles -/

/-- A link in step that an undisturbed cycle keeps going: an accepted configuration, the strobe enabled, and an undriven bus
that reads as a harmless platform byte (R254, R323). -/
structure State.Steady (s : State) : Prop where
  accepted : refusalOf s.params = none
  inSync : s.inSync
  enabled : s.cfg.cfgEn = true
  harmless : ∃ b, s.params.busFloat = some b ∧ b ≠ 0x82 ∧ b ≠ 0x83

/-- The state `n` clock edges later. -/
def State.later (s : State) : Nat → State
  | 0 => s
  | n + 1 => (s.later n).edgeWith (s.later n).bus

theorem State.later_params (s : State) (n : Nat) : (s.later n).params = s.params := by
  induction n with
  | zero => rfl
  | succ n ih => exact ih

theorem State.later_inputs (s : State) (n : Nat) : (s.later n).inputs = s.inputs.drop n := by
  induction n with
  | zero => rfl
  | succ n ih => rw [State.later, State.edgeWith_inputs, ih, List.tail_drop]

/-- The last of the quiet cycles. -/
theorem quietFor_last {n : Nat} {ps : List Pins} (h : quietFor (n + 1) ps = true) :
    ((ps.drop n).headD Pins.quiet).rst = false ∧ ((ps.drop n).headD Pins.quiet).rbWe = false := by
  induction n generalizing ps with
  | zero =>
    obtain ⟨hrst, hwe, -⟩ := (quietFor_succ 0 ps).mp h
    exact ⟨hrst, hwe⟩
  | succ n ih =>
    obtain ⟨-, -, htail⟩ := (quietFor_succ (n + 1) ps).mp h
    simpa using ih htail

/-- The pins of the last of the quiet cycles. -/
theorem State.later_pins {s : State} {n : Nat} (h : quietFor (n + 1) s.inputs = true) :
    (s.later n).pins.rst = false ∧ (s.later n).pins.rbWe = false := by
  rw [State.pins, State.later_inputs]
  exact quietFor_last h

theorem State.Steady.floatHarmless {s : State} (hs : s.Steady) : s.floatHarmless := by
  obtain ⟨b, hb, h82, h83⟩ := hs.harmless
  simpa [State.floatHarmless, State.floatByte, hb] using And.intro h82 h83

/-- An undisturbed cycle is live. -/
theorem State.Steady.live {s : State} (hs : s.Steady) (hrst : s.pins.rst = false) (hwe : s.pins.rbWe = false) :
    s.live := by
  obtain ⟨-, -, -, hph⟩ := hs.inSync
  exact State.live_of_quiet hs.accepted hrst hwe (State.not_both_drive hph)

/-- An undisturbed cycle keeps the link going. -/
theorem State.Steady.edgeWith {s : State} (hs : s.Steady) (hwe : s.pins.rbWe = false) :
    (s.edgeWith s.bus).Steady where
  accepted := hs.accepted
  inSync := State.inSync_edgeWith hs.inSync hs.floatHarmless
  enabled := by rw [State.edgeWith_cfg, ConfigRegs.next_hold hwe, hs.enabled]
  harmless := hs.harmless

section Undisturbed
variable {s : State}

theorem State.Steady.later (hs : s.Steady) {n : Nat} (hq : quietFor n s.inputs = true) : (s.later n).Steady := by
  induction n with
  | zero => exact hs
  | succ n ih => exact (ih (quietFor_mono n.le_succ hq)).edgeWith (State.later_pins hq).2

/-- An undisturbed run goes through the clock edges, one after the other. -/
theorem State.Steady.reaches_later (hs : s.Steady) {n : Nat} (hq : quietFor n s.inputs = true) :
    reaches n s (s.later n) := by
  induction n with
  | zero => exact (reaches_zero s s).mpr rfl
  | succ n ih =>
    have hq' := quietFor_mono n.le_succ hq
    obtain ⟨hrst, hwe⟩ := State.later_pins hq
    have hstep : step (s.later n) = .next (s.later (n + 1)) := step_live ((hs.later hq').live hrst hwe)
    exact reaches_add (ih hq') ((reaches_succ 0 _ _).mpr ⟨_, hstep, (reaches_zero _ _).mpr rfl⟩)

theorem State.later_cfg {n : Nat} (hq : quietFor n s.inputs = true) : (s.later n).cfg = s.cfg := by
  induction n with
  | zero => rfl
  | succ n ih =>
    rw [State.later, State.edgeWith_cfg, ConfigRegs.next_hold (State.later_pins hq).2, ih (quietFor_mono n.le_succ hq)]

theorem State.later_gen {n : Nat} (hq : quietFor n s.inputs = true) :
    (s.later n).gen = StrobeRegs.after s.params.strobeVariant s.cfg n s.gen := by
  induction n with
  | zero => rfl
  | succ n ih =>
    have hq' := quietFor_mono n.le_succ hq
    rw [State.later, State.edgeWith_gen, ih hq', State.later_params, State.later_cfg hq', StrobeRegs.after_succ]

/-- From a tick of the undisturbed train on, a tick comes once a bus period (R128). -/
theorem State.Steady.strobe_later (hs : s.Steady) (ht : s.gen.onTick s.params.strobeVariant s.cfg = true) {n : Nat}
    (hq : quietFor n s.inputs = true) : (s.later n).strobe = decide (n % s.cfg.period = 0) := by
  have hgate : gate s.params.enableSemantics s.cfg = true := (gate_iff ..).mpr (.inr hs.enabled)
  rw [State.strobe, State.later_gen hq, State.later_params, State.later_cfg hq, StrobeRegs.strobe, hgate, Bool.and_true,
    StrobeRegs.raw_after_onTick ht]

/-! ### A frame -/

/-- An end that starts to send at a tick sends one byte for each bus period (R168, R205): in cycle `n + 1` it has sent the
bytes of the `n / P` periods that are over. -/
theorem State.Steady.toSend_later (hs : s.Steady) (ht : s.gen.onTick s.params.strobeVariant s.cfg = true)
    {who : Driver} {bytes : List Byte} (hstart : (s.later 1).toSend who = bytes) {n : Nat}
    (hn : n < bytes.length * s.cfg.period) (hq : quietFor (n + 1) s.inputs = true) :
    (s.later (n + 1)).toSend who = bytes.drop (n / s.cfg.period) := by
  induction n with
  | zero => rw [Nat.zero_div]; exact hstart
  | succ n ih =>
    have hq' := quietFor_mono (n + 1).le_succ hq
    have ih := ih (by omega) hq'
    have hlt : n / s.cfg.period < bytes.length := Nat.div_lt_of_lt_mul (by rw [Nat.mul_comm]; omega)
    have hne : (s.later (n + 1)).toSend who ≠ [] := by
      rw [ih, ne_eq, List.drop_eq_nil_iff]
      omega
    have hu := hs.later hq'
    have hstrobe := hs.strobe_later ht hq'
    rw [State.later, Nat.succ_div]
    by_cases hdvd : s.cfg.period ∣ n + 1
    · rw [decide_eq_true (Nat.dvd_iff_mod_eq_zero.mp hdvd)] at hstrobe
      rw [State.toSend_tick hu.accepted hu.inSync hstrobe hne, ih, List.tail_drop, if_pos hdvd]
    · rw [decide_eq_false (mt Nat.dvd_iff_mod_eq_zero.mpr hdvd)] at hstrobe
      rw [State.toSend_between hu.inSync hstrobe hne, ih, if_neg hdvd, Nat.add_zero]

/-- A bus period ends at the one multiple of its length it contains. -/
theorem mod_eq_zero_iff_of_last {p k c : Nat} (hlo : k * p < c) (hhi : c ≤ (k + 1) * p) :
    c % p = 0 ↔ c = (k + 1) * p := by
  constructor
  · intro h
    obtain ⟨m, rfl⟩ := Nat.dvd_of_mod_eq_zero h
    rw [Nat.mul_comm p m] at *
    have hkm : k < m := Nat.lt_of_mul_lt_mul_right hlo
    exact Nat.le_antisymm hhi (Nat.mul_le_mul_right p hkm)
  · rintro rfl
    exact Nat.mul_mod_left ..

/-- In the bus period of byte `k` the end has that byte and the later ones to send. -/
theorem State.Steady.toSend_in_period (hs : s.Steady) (ht : s.gen.onTick s.params.strobeVariant s.cfg = true)
    {who : Driver} {bytes : List Byte} (hstart : (s.later 1).toSend who = bytes) {k : Nat} (hk : k < bytes.length)
    {c : Nat} (hlo : k * s.cfg.period < c) (hhi : c ≤ (k + 1) * s.cfg.period) (hq : quietFor c s.inputs = true) :
    (s.later c).toSend who = bytes[k] :: bytes.drop (k + 1) := by
  have hend : (k + 1) * s.cfg.period ≤ bytes.length * s.cfg.period := Nat.mul_le_mul_right _ hk
  obtain ⟨n, rfl⟩ : ∃ n, c = n + 1 := ⟨c - 1, by omega⟩
  have hperiod : n / s.cfg.period = k := Nat.div_eq_of_lt_le (by omega) (by omega)
  rw [hs.toSend_later ht hstart (by omega) hq, hperiod, List.drop_eq_getElem_cons hk]

/-- Each byte of a frame is driven for one bus period and sampled by both ends at the tick that ends it (R253). -/
theorem State.Steady.byte_on_wire (hs : s.Steady) (ht : s.gen.onTick s.params.strobeVariant s.cfg = true)
    {who : Driver} {bytes : List Byte} (hstart : (s.later 1).toSend who = bytes)
    (hq : quietFor (bytes.length * s.cfg.period) s.inputs = true) {k : Nat} (hk : k < bytes.length) {c : Nat}
    (hlo : k * s.cfg.period < c) (hhi : c ≤ (k + 1) * s.cfg.period) :
    ∃ u, reaches c s u ∧ u.driver = who ∧ some u.bus = bytes[k]? ∧ (u.strobe = true ↔ c = (k + 1) * s.cfg.period) := by
  have hqc : quietFor c s.inputs = true := quietFor_mono (hhi.trans (Nat.mul_le_mul_right _ hk)) hq
  have hsend := hs.toSend_in_period ht hstart hk hlo hhi hqc
  obtain ⟨hdriver, hbus⟩ := State.driver_of_toSend (hs.later hqc).inSync hsend
  refine ⟨_, hs.reaches_later hqc, hdriver, by rw [hbus, List.getElem?_eq_getElem hk], ?_⟩
  rw [hs.strobe_later ht hqc, decide_eq_true_eq, mod_eq_zero_iff_of_last hlo hhi]

/-- A whole frame, and the cycle after it. -/
theorem State.Steady.sends (hs : s.Steady) (ht : s.gen.onTick s.params.strobeVariant s.cfg = true) {who : Driver}
    {bytes : List Byte} (hstart : (s.later 1).toSend who = bytes) (hne : bytes ≠ [])
    (hq : quietFor (bytes.length * s.cfg.period + 1) s.inputs = true) : s.sends who bytes := by
  have hq' := quietFor_mono (Nat.le_succ _) hq
  refine ⟨fun k hk c hlo hhi => hs.byte_on_wire ht hstart hq' hk hlo hhi, _, hs.reaches_later hq, ?_⟩
  have hu := hs.later hq'
  have hpos : 0 < s.cfg.period := Nat.two_pow_pos _
  obtain ⟨k, hk⟩ : ∃ k, bytes.length = k + 1 := Nat.exists_eq_add_one.mpr (List.length_pos_iff.mpr hne)
  have hlast : (s.later (bytes.length * s.cfg.period)).toSend who = [bytes[k]] := by
    rw [hs.toSend_in_period ht hstart (k := k) (by omega) (by rw [hk, Nat.succ_mul]; omega) (by rw [hk]) hq',
      List.drop_eq_nil_of_le hk.le]
  exact State.nobody_after_last hu.accepted hu.inSync ((hs.strobe_later ht hq').trans (by simp)) hlast

end Undisturbed

/-! ### Where frames start -/

section Starts
variable {s : State} {n : Nat}

theorem State.acceptsFor.steady (h : s.acceptsFor n) : s.Steady := by
  obtain ⟨hp, hs, -, hen, -, -, hf, -⟩ := h
  exact ⟨hp, hs, hen, hf⟩

theorem State.answersFor.steady (h : s.answersFor n) : s.Steady := by
  obtain ⟨hp, hs, -, hen, -, hf, -⟩ := h
  exact ⟨hp, hs, hen, hf⟩

/-- A cycle on the undisturbed train is a tick. -/
theorem State.Steady.strobe_of_onTick (hs : s.Steady) (ht : s.gen.onTick s.params.strobeVariant s.cfg = true) :
    s.strobe = true := by
  simpa [State.later] using hs.strobe_later ht (n := 0) rfl

/-- The tick at which an answer starts is a peripheral cycle. -/
theorem State.answersFor.pAdv (h : s.answersFor n) : s.pAdv = true := by
  have hs := h.steady
  obtain ⟨-, ⟨hatt, -⟩, -, -, ht, -⟩ := h
  exact s.pAdv_iff.mpr ⟨hs.strobe_of_onTick ht, hatt⟩

/-- At its acceptance tick the host takes a write and has its whole frame to send (R153, R94). -/
theorem State.toSend_acceptWrite (hidle : s.host.hstate = .idle) (ht : s.strobe = true) (hpend : s.pins.pending = true)
    (hwe : s.pins.wbWe = true) (b : Byte) : (s.edgeWith b).toSend .host =
      encodeFrame s.params.hostWidths (.write (s.pins.addr s.params.hostWidths) (s.pins.sel s.params.hostWidths)
        (s.pins.data s.params.hostWidths)) := by
  have hwrite : s.pins.pendingWrite = true := Bool.and_eq_true_iff.mpr ⟨hpend, hwe⟩
  have htake : s.hostNext b = s.host.acceptWrite s.params.hostWidths s.pins := by
    rw [State.hostNext, HostRegs.next_idle _ _ _ _ hidle, HostRegs.stepIdle, if_pos (by simp [ht, hwrite])]
  rw [State.toSend, State.edgeWith_host, htake]
  rfl

/-- At its acceptance tick the host takes a read and has its whole frame to send (R153, R95). -/
theorem State.toSend_acceptRead (hidle : s.host.hstate = .idle) (ht : s.strobe = true) (hpend : s.pins.pending = true)
    (hwe : s.pins.wbWe = false) (b : Byte) : (s.edgeWith b).toSend .host =
      encodeFrame s.params.hostWidths (.read (s.pins.addr s.params.hostWidths)) := by
  have hwrite : s.pins.pendingWrite = false := by simp [Pins.pendingWrite, hwe]
  have hread : s.pins.pendingRead = true := by simp [Pins.pendingRead, hpend, hwe]
  have htake : s.hostNext b = s.host.acceptRead s.params.hostWidths s.pins := by
    rw [State.hostNext, HostRegs.next_idle _ _ _ _ hidle, HostRegs.stepIdle, if_neg (by simp [hwrite]),
      if_pos (by simp [ht, hread])]
  rw [State.toSend, State.edgeWith_host, htake]
  rfl

/-- When the responder acknowledges a write, the peripheral has the response to send (R198, R96). -/
theorem State.toSend_writeAcked (hstate : s.periph.pstate = .writeWishbone) (hadv : s.pAdv = true)
    (hack : s.pins.rAck = true) (b : Byte) :
    (s.edgeWith b).toSend .periph = encodeFrame s.params.periphWidths .writeAck := by
  have htake : s.periphNext b = s.periph.writeAcked := by
    rw [State.periphNext, hadv, PeriphRegs.advance_true, PeriphRegs.next_writeWishbone _ _ _ _ hstate, if_pos hack]
  rw [State.toSend, State.edgeWith_periph, htake]
  rfl

/-- When the responder acknowledges a read, the peripheral has the response with the word presented to send (R200, R97). -/
theorem State.toSend_readAcked (hstate : s.periph.pstate = .readWishbone) (hadv : s.pAdv = true)
    (hack : s.pins.rAck = true) (b : Byte) : (s.edgeWith b).toSend .periph =
      encodeFrame s.params.periphWidths (.readAck (lowData s.params.periphWidths.d s.rDatR)) := by
  have htake : s.periphNext b = s.periph.readAcked s.params.periphWidths s.rDatR := by
    rw [State.periphNext, hadv, PeriphRegs.advance_true, PeriphRegs.next_readWishbone _ _ _ _ hstate, if_pos hack]
  rw [State.toSend, State.edgeWith_periph, htake]
  rfl

end Starts

/-! ### The frames -/

/-- Settles O58: the host starts to send the frame at the acceptance tick, and sends one byte for each bus period. -/
theorem writeFrameOnTheWire : Obligations.WriteFrameOnTheWire := by
  intro s w bytes h hwe k hk
  have hs := h.steady
  obtain ⟨-, -, hidle, -, ht, hpend, -, hq⟩ := h
  have hstart : (s.later 1).toSend .host = bytes :=
    State.toSend_acceptWrite hidle (hs.strobe_of_onTick ht) hpend hwe _
  have hpos : 0 < s.cfg.period := Nat.two_pow_pos _
  obtain ⟨u, hu, hdriver, hbus, htick⟩ := hs.byte_on_wire ht hstart hq hk (by rw [Nat.succ_mul]; omega) le_rfl
  exact ⟨u, hu, htick.mpr rfl, hdriver, hbus⟩

/-- Settles O60: each frame starts at its tick and is sent one byte for each bus period. -/
theorem readAndAnswerFramesOnTheWire : Obligations.ReadAndAnswerFramesOnTheWire := by
  refine ⟨fun s h hwe => ?_, fun s h hstate => ?_, fun s h hstate => ?_⟩
  · have hs := h.steady
    obtain ⟨-, -, hidle, -, ht, hpend, -, hq⟩ := h
    exact hs.sends ht (State.toSend_acceptRead hidle (hs.strobe_of_onTick ht) hpend hwe _) (encodeFrame_ne_nil _ _) hq
  · have ⟨_, _, hack, _, ht, _, hq⟩ := h
    exact h.steady.sends ht (State.toSend_writeAcked hstate h.pAdv hack _) (encodeFrame_ne_nil _ _) hq
  · have ⟨_, _, hack, _, ht, _, hq⟩ := h
    exact h.steady.sends ht (State.toSend_readAcked hstate h.pAdv hack _) (encodeFrame_ne_nil _ _) hq

end Sys2Proof.Machine
end


section
/-! PROOFS. The strobe generator in the machine and from reset (spec/40_strobe.md R121 to R128): the counter runs free,
no tick follows a tick, the trains of ticks of both variants, and the two enable semantics with `cfg_en = 1`. -/

namespace Sys2Proof.Machine

/-! ### The generator in the machine -/

/-- Settles O20: the clock edge moves the generator by its own rule, which adds 1 to `ctr` and copies the tap. -/
theorem counterRunsFree : Obligations.CounterRunsFree := by
  intro s hs hv
  have hgen : (s.edgeWith s.bus).gen = s.gen.next .tapEdge s.cfg := by rw [State.edgeWith_gen, hv]
  refine ⟨_, step_live hs, ?_, ?_⟩
  · rw [hgen]
    exact BitVec.toNat_add s.gen.ctr 1
  · rw [hgen]
    rfl

/-- Without a pulse there is no tick. -/
theorem State.strobe_eq_false_of_raw {s : State} (h : s.gen.raw s.params.strobeVariant s.cfg = false) :
    s.strobe = false := by
  rw [State.strobe, StrobeRegs.strobe, h, Bool.false_and]

/-- No pulse follows a pulse across a clock edge, whatever the cycle writes to CONFIG (R123, R127). -/
theorem State.raw_edgeWith_of_raw {s : State} (h : s.gen.raw s.params.strobeVariant s.cfg = true) (b : Byte) :
    (s.edgeWith b).gen.raw (s.edgeWith b).params.strobeVariant (s.edgeWith b).cfg = false := by
  rw [State.edgeWith_gen, State.edgeWith_params]
  exact StrobeRegs.raw_next_of_raw h _

/-- Settles O21: without reset a step is the clock edge, and a tick is a pulse. -/
theorem ticksNeverAdjacent : Obligations.TicksNeverAdjacent := by
  intro s t h hrst
  obtain ⟨-, ⟨hr, -⟩ | ⟨-, -, rfl⟩⟩ := step_next h
  · simp [hrst] at hr
  · have hraw (hs : s.gen.raw s.params.strobeVariant s.cfg = true) := State.raw_edgeWith_of_raw hs s.bus
    exact ⟨fun hs => ⟨hraw hs, State.strobe_eq_false_of_raw (hraw hs)⟩,
      fun hs => State.strobe_eq_false_of_raw (hraw (StrobeRegs.raw_of_strobe hs))⟩

/-! ### The train of ticks -/

/-- Settles O24: each variant pulses once a period from a tick of its train. -/
theorem ticksOnePeriodApart : Obligations.TicksOnePeriodApart := fun _ _ _ n h => StrobeRegs.raw_after_onTick h n

/-- Settles O23: the countdown is 0 after reset, so reset is a tick of the train. -/
theorem modNTicksFromReset : Obligations.ModNTicksFromReset := fun _ n => StrobeRegs.raw_after_onTick rfl n

/-- Stretches of cycles compose. -/
theorem StrobeRegs.after_add (v : StrobeVariant) (c : ConfigRegs) (m n : Nat) (g : StrobeRegs) :
    StrobeRegs.after v c (m + n) g = StrobeRegs.after v c n (StrobeRegs.after v c m g) := by
  induction n with
  | zero => rfl
  | succ n ih => rw [← Nat.add_assoc, StrobeRegs.after_succ, StrobeRegs.after_succ, ih]

theorem ConfigRegs.half_lt_period (c : ConfigRegs) : 2 ^ c.cfgDiv.toNat < c.period :=
  Nat.pow_lt_pow_succ one_lt_two

/-- From reset TapEdge counts the cycles (R121). -/
theorem StrobeRegs.ctr_after_reset (c : ConfigRegs) (n : Nat) :
    (StrobeRegs.after .tapEdge c n StrobeRegs.reset).ctr = BitVec.ofNat 8 n := by
  rw [StrobeRegs.ctr_after_tapEdge]
  exact BitVec.zero_add _

/-- The selected bit is 0 in the first half period after reset. -/
theorem StrobeRegs.tap_after_reset {c : ConfigRegs} {n : Nat} (h : n < 2 ^ c.cfgDiv.toNat) :
    (StrobeRegs.after .tapEdge c n StrobeRegs.reset).tap c = false := by
  rw [StrobeRegs.tap, StrobeRegs.ctr_after_reset, BitVec.getLsbD_ofNat, Nat.testBit_lt_two_pow h, Bool.and_false]

/-- Half a period after reset the selected bit rises for the first time: the first tick of the train (R126). -/
theorem StrobeRegs.onTick_after_reset (c : ConfigRegs) :
    (StrobeRegs.after .tapEdge c (2 ^ c.cfgDiv.toNat) StrobeRegs.reset).onTick .tapEdge c = true := by
  have hpos : 0 < 2 ^ c.cfgDiv.toNat := Nat.two_pow_pos _
  have hlt := c.half_lt_period
  have hfits := Nat.le_of_dvd (by decide) c.period_dvd
  have hctr : (StrobeRegs.after .tapEdge c (2 ^ c.cfgDiv.toNat) StrobeRegs.reset).ctr.toNat = 2 ^ c.cfgDiv.toNat := by
    rw [StrobeRegs.ctr_after_reset, BitVec.toNat_ofNat, Nat.mod_eq_of_lt (by omega)]
  have hprev : (StrobeRegs.after .tapEdge c (2 ^ c.cfgDiv.toNat) StrobeRegs.reset).prev = false := by
    obtain ⟨k, hk⟩ : ∃ k, 2 ^ c.cfgDiv.toNat = k + 1 := ⟨_, (Nat.sub_add_cancel hpos).symm⟩
    rw [hk, StrobeRegs.after_succ]
    exact StrobeRegs.tap_after_reset (by omega)
  rw [StrobeRegs.onTick, hctr, hprev, Nat.mod_eq_of_lt hlt]
  simp

/-- Settles O22: no pulse before the first tick, and from it on one each period. -/
theorem tapEdgeTicksFromReset : Obligations.TapEdgeTicksFromReset := by
  intro c n
  have hlt := c.half_lt_period
  change _ = decide (n % c.period = 2 ^ c.cfgDiv.toNat)
  by_cases hn : n < 2 ^ c.cfgDiv.toNat
  · rw [StrobeRegs.raw, StrobeRegs.tap_after_reset hn, Nat.mod_eq_of_lt (hn.trans hlt), decide_eq_false hn.ne,
      Bool.false_and]
  · obtain ⟨m, rfl⟩ := Nat.exists_eq_add_of_le (not_lt.mp hn)
    rw [StrobeRegs.after_add, StrobeRegs.raw_after_onTick (StrobeRegs.onTick_after_reset c), decide_eq_decide]
    calc m % c.period = 0
      _ ↔ 2 ^ c.cfgDiv.toNat + m ≡ 2 ^ c.cfgDiv.toNat [MOD c.period] := by
        rw [Nat.add_modEq_left_iff, Nat.dvd_iff_mod_eq_zero]
      _ ↔ (2 ^ c.cfgDiv.toNat + m) % c.period = 2 ^ c.cfgDiv.toNat := by rw [Nat.ModEq, Nat.mod_eq_of_lt hlt]

/-! ### The two enable semantics -/

/-- The same machine built with another `ENABLE_SEMANTICS` (R10). -/
def State.withEnableSemantics (s : State) (e : EnableSemantics) : State :=
  { s with params := { s.params with enableSemantics := e } }

section EnableSemantics
variable {s : State} (e : EnableSemantics)

theorem State.withEnableSemantics_live : (s.withEnableSemantics e).live ↔ s.live := Iff.rfl

theorem State.withEnableSemantics_bus : (s.withEnableSemantics e).bus = s.bus := rfl

theorem State.withEnableSemantics_resetEvent :
    (s.withEnableSemantics e).resetEvent = s.resetEvent.withEnableSemantics e := rfl

/-- With `cfg_en = 1` the gate is open under either semantics, so the ticks are the same (R124). -/
theorem State.withEnableSemantics_strobe (hen : s.cfg.cfgEn = true) :
    (s.withEnableSemantics e).strobe = s.strobe := by
  have hgate (e' : EnableSemantics) : gate e' s.cfg = true := (gate_iff ..).mpr (.inr hen)
  simp only [State.strobe, StrobeRegs.strobe, State.withEnableSemantics, hgate]

theorem State.withEnableSemantics_pAdv (hen : s.cfg.cfgEn = true) :
    (s.withEnableSemantics e).pAdv = s.pAdv := by
  rw [State.pAdv, State.withEnableSemantics_strobe e hen]
  rfl

/-- The clock edge reads the semantics only through the ticks. -/
theorem State.withEnableSemantics_edgeWith (hen : s.cfg.cfgEn = true) (b : Byte) :
    (s.withEnableSemantics e).edgeWith b = (s.edgeWith b).withEnableSemantics e := by
  have hhost : (s.withEnableSemantics e).hostNext b = s.hostNext b := by
    rw [State.hostNext, State.withEnableSemantics_strobe e hen]
    rfl
  have hperiph : (s.withEnableSemantics e).periphNext b = s.periphNext b := by
    rw [State.periphNext, State.withEnableSemantics_pAdv e hen]
    rfl
  have hmem : (s.withEnableSemantics e).memNext = s.memNext := by
    rw [State.memNext, State.withEnableSemantics_pAdv e hen]
    rfl
  rw [State.edgeWith, hhost, hperiph, State.edge, hmem]
  rfl

end EnableSemantics

/-- Settles O25: the reset event does not read the semantics, and with `cfg_en = 1` the clock edge does the same under
either. -/
theorem enableSemanticsCoincideWhenEnabled : Obligations.EnableSemanticsCoincideWhenEnabled := by
  intro s t e hen h
  change step (s.withEnableSemantics e) = .next (t.withEnableSemantics e)
  obtain ⟨hp, ⟨hr, rfl⟩ | ⟨hr, hs, rfl⟩⟩ := step_next h
  · rw [step_eq_cycle, State.cycle_reset (s := s.withEnableSemantics e) hp hr,
      State.withEnableSemantics_resetEvent]
  · rw [step_live ((State.withEnableSemantics_live e).mpr ⟨hp, hr, hs⟩), State.withEnableSemantics_bus,
      State.withEnableSemantics_edgeWith e hen]

end Sys2Proof.Machine
end

section
/-! PROOFS. The codec functions (spec/41_codec.md R140 to R144): the acknowledgment bytes and who emits and accepts them,
and the parity of a byte. -/

namespace Sys2Proof

open Machine

/-! ### The acknowledgment bytes -/

/-- An acknowledgment is its request with bit 7 set (R141). -/
theorem encodeAck_eq_or (dir : Direction) : encodeAck dir = 0x80#8 ||| encodeRequest dir := by
  cases dir <;> rfl

/-- `is_ack` is equality with the expected acknowledgment (R142). -/
theorem isAck_iff (b : Byte) (dir : Direction) : isAck b dir = true ↔ b = encodeAck dir := beq_iff_eq

/-! ### Parity -/

/-- `PARITY_INVERT` is one more term of the exclusive or (R143). -/
theorem Machine.parity_eq_xor (invert : Bool) (b : Byte) : parity invert b = (parity false b ^^ invert) := by
  simp only [parity, Bool.xor_false]

/-- The exclusive or of `p` over a list, the last element first. -/
def xorOver {α : Type} (p : α → Bool) (l : List α) : Bool := l.foldr (fun i acc => acc ^^ p i) false

@[simp] theorem xorOver_nil {α : Type} (p : α → Bool) : xorOver p [] = false := rfl

@[simp] theorem xorOver_cons {α : Type} (p : α → Bool) (i : α) (l : List α) :
    xorOver p (i :: l) = (xorOver p l ^^ p i) := rfl

/-- Without `PARITY_INVERT` parity is the exclusive or of the bits, from bit 7 down to bit 0 (R143). -/
theorem Machine.parity_eq_xorOver (b : Byte) : parity false b = xorOver (fun i => b.getLsbD i) (List.range 8) := by
  simp [parity, List.range_eq_range', List.range']

/-- An exclusive or tells whether the number of hits is odd: each hit flips both. -/
theorem xorOver_eq_decide_countP {α : Type} (p : α → Bool) (l : List α) :
    xorOver p l = decide (l.countP p % 2 = 1) := by
  induction l with
  | nil => rfl
  | cons i l ih =>
    rw [xorOver_cons, ih]
    cases hp : p i with
    | false => rw [List.countP_cons_of_neg (by simp [hp]), Bool.xor_false]
    | true =>
      rw [List.countP_cons_of_pos hp, Bool.xor_true, ← decide_not, decide_eq_decide]
      omega

/-- An exclusive or of two exclusive ors is that of the terms. -/
theorem xorOver_xor {α : Type} (p q : α → Bool) (l : List α) :
    xorOver (fun i => p i ^^ q i) l = (xorOver p l ^^ xorOver q l) := by
  induction l with
  | nil => rfl
  | cons i l ih => simp only [xorOver_cons, ih, Bool.xor_assoc, Bool.xor_left_comm]

/-- Parity is linear (95_test_vectors.md section 2.2). -/
theorem Machine.parity_xor (a b : Byte) : parity false (a ^^^ b) = (parity false a ^^ parity false b) := by
  simp only [parity_eq_xorOver, BitVec.getLsbD_xor, xorOver_xor]

/-- Settles O7: parity is an exclusive or of bits, and each bit that is 1 flips it; the parity outputs are its values by
definition. -/
theorem parityIsOddCount : Obligations.ParityIsOddCount := by
  refine ⟨fun b => ?_, fun b => ?_, parity_xor, fun s => ⟨rfl, rfl⟩⟩
  · rw [parity_eq_xorOver, xorOver_eq_decide_countP]
  · rw [parity_eq_xor, Bool.xor_true]

end Sys2Proof

namespace Sys2Proof.Machine

/-! ### Who emits and who accepts an acknowledgment -/

section Acknowledgments
variable {s : State} (b : Byte)

/-- At a tick the host that waits for WRITE_ACK moves on exactly when the byte is it (R142, R160). -/
theorem State.hostNext_writeAck (ht : s.strobe = true) (hwait : s.host.hstate = .writeAck) :
    s.hostNext b = if isAck b .write = true then s.host.takeWriteAck else s.host := by
  rw [State.hostNext, HostRegs.next_writeAck _ _ _ _ hwait, if_pos ht]

/-- At a tick the host that waits for READ_ACK moves on exactly when the byte is it (R142, R162). -/
theorem State.hostNext_readAck (ht : s.strobe = true) (hwait : s.host.hstate = .readAck) :
    s.hostNext b = if isAck b .read = true then s.host.takeReadAck s.params.hostWidths else s.host := by
  rw [State.hostNext, HostRegs.next_readAck _ _ _ _ hwait, if_pos ht]

/-- In the peripheral cycle in which the responder acknowledges a write, the peripheral emits WRITE_ACK (R198). -/
theorem State.periphNext_writeAcked (hadv : s.pAdv = true) (hack : s.pins.rAck = true)
    (hstate : s.periph.pstate = .writeWishbone) : s.periphNext b = s.periph.writeAcked := by
  rw [State.periphNext, hadv, PeriphRegs.advance_true, PeriphRegs.next_writeWishbone _ _ _ _ hstate, if_pos hack]

/-- In the peripheral cycle in which the responder acknowledges a read, the peripheral keeps the word presented and emits
READ_ACK (R200). -/
theorem State.periphNext_readAcked (hadv : s.pAdv = true) (hack : s.pins.rAck = true)
    (hstate : s.periph.pstate = .readWishbone) :
    s.periphNext b = s.periph.readAcked s.params.periphWidths s.rDatR := by
  rw [State.periphNext, hadv, PeriphRegs.advance_true, PeriphRegs.next_readWishbone _ _ _ _ hstate, if_pos hack]

end Acknowledgments

/-- Settles O6: both waiting states compare the byte on the bus by `is_ack`, each with its own direction. -/
theorem isAckIsEquality : Obligations.IsAckIsEquality := by
  refine ⟨fun b dir => ?_, fun s hs ht => ⟨_, step_live hs, fun hwait => ?_, fun hwait => ?_⟩⟩
  · cases dir with
    | read => exact isAck_iff b .read
    | write => exact isAck_iff b .write
  · exact State.hostNext_writeAck s.bus ht hwait
  · exact State.hostNext_readAck s.bus ht hwait

/-- Settles O5: the bytes by computation; the peripheral emits them by its two rules for an acknowledging responder. -/
theorem ackBytesAreRequestsWithBit7 : Obligations.AckBytesAreRequestsWithBit7 := by
  refine ⟨rfl, rfl, encodeAck_eq_or, fun s hs ht hatt hack => ?_⟩
  have hadv : s.pAdv = true := s.pAdv_iff.mpr ⟨ht, hatt⟩
  refine ⟨_, step_live hs, fun hstate => ?_, fun hstate => ?_⟩
  · rw [State.edgeWith_periph, State.periphNext_writeAcked s.bus hadv hack hstate]
    rfl
  · rw [State.edgeWith_periph, State.periphNext_readAcked s.bus hadv hack hstate]
    rfl

end Sys2Proof.Machine
end

section
/-! PROOFS. The Host Controller (spec/42_host.md): acceptance in IDLE (R153), the bytes of a request and of the read data
(R154 to R159, R163), the two acknowledgments (R160, R162), the completion cycle (R164, R165), the wide-bus pins a busy host
ignores (R166) and the output byte of each state (R167). -/

namespace Sys2Proof.Machine

/-! ### Acceptance -/

theorem Pins.pending_iff (p : Pins) : p.pending = true ↔ p.wbCyc = true ∧ p.wbStb = true :=
  Bool.and_eq_true_iff

section Acceptance
variable {tick : Bool} {p : Pins} (w : Widths) (h : HostRegs)

/-- IDLE at a tick with a pending write (R153). -/
theorem HostRegs.stepIdle_of_write (ht : tick = true) (hreq : p.pending = true) (hwe : p.wbWe = true) :
    h.stepIdle w tick p = h.acceptWrite w p := by
  simp [HostRegs.stepIdle, Pins.pendingWrite, ht, hreq, hwe]

/-- IDLE at a tick with a pending read (R153). -/
theorem HostRegs.stepIdle_of_read (ht : tick = true) (hreq : p.pending = true) (hwe : p.wbWe = false) :
    h.stepIdle w tick p = h.acceptRead w p := by
  simp [HostRegs.stepIdle, Pins.pendingWrite, Pins.pendingRead, ht, hreq, hwe]

/-- IDLE in a cycle that is no tick or has no request (R153). -/
theorem HostRegs.stepIdle_of_no_request (hno : ¬ (tick = true ∧ p.pending = true)) :
    h.stepIdle w tick p = h.rest := by
  have hwrite : ¬ (tick && p.pendingWrite) = true := by
    simp only [Pins.pendingWrite, Bool.and_eq_true]
    tauto
  have hread : ¬ (tick && p.pendingRead) = true := by
    simp only [Pins.pendingRead, Bool.and_eq_true]
    tauto
  rw [HostRegs.stepIdle, if_neg hwrite, if_neg hread]

end Acceptance

/-- Settles O30: the three branches of the idle state's rule, by request and direction. -/
theorem idleHostAcceptsAtATick : Obligations.IdleHostAcceptsAtATick := by
  intro s hs hidle
  refine ⟨_, step_live hs, ?_⟩
  rw [State.edgeWith_host, State.hostNext, HostRegs.next_idle _ _ _ _ hidle]
  simp only [← Pins.pending_iff]
  split_ifs with hreq hwe
  · obtain ⟨ht, hpend⟩ := hreq
    exact HostRegs.stepIdle_of_write _ _ ht hpend hwe
  · obtain ⟨ht, hpend⟩ := hreq
    exact HostRegs.stepIdle_of_read _ _ ht hpend (eq_false_of_ne_true hwe)
  · exact HostRegs.stepIdle_of_no_request _ _ hreq

/-! ### A request and the read data, byte by byte -/

section Countdown
variable (h : HostRegs)

/-- WRITE_ADDR, the end of the countdown as the first case (R156). -/
theorem HostRegs.stepWriteAddr_eq : h.stepWriteAddr =
    if h.hcount = 0 then { h with hout := h.hsel, hstate := .writeSel }
    else { h.emitAddr with hcount := h.hcount - 1 } := by
  simp only [HostRegs.stepWriteAddr, ne_eq, ite_not]

/-- READ_ADDR, the end of the countdown as the first case (R157). -/
theorem HostRegs.stepReadAddr_eq : h.stepReadAddr =
    if h.hcount = 0 then { h with hout := 0x00, hstate := .readAck }
    else { h.emitAddr with hcount := h.hcount - 1 } := by
  simp only [HostRegs.stepReadAddr, ne_eq, ite_not]

/-- WRITE_DATA, the end of the countdown as the first case (R159). -/
theorem HostRegs.stepWriteData_eq : h.stepWriteData =
    if h.hcount = 0 then { h with hout := 0x00, hstate := .writeAck }
    else { h.emitData with hcount := h.hcount - 1 } := by
  simp only [HostRegs.stepWriteData, ne_eq, ite_not]

/-- At countdown 0 the byte is taken too, and the countdown stays there (R163). -/
theorem HostRegs.stepReadData_eq (w : Widths) (b : Byte) : h.stepReadData w b =
    { h with
      hdata := dataInsert w.d b h.hdata
      hcount := h.hcount - 1
      hstate := if h.hcount = 0 then .wishboneAck else h.hstate } := by
  unfold HostRegs.stepReadData
  split
  · rename_i hc
    rw [hc]
  · rfl

end Countdown

/-- The byte emitted first is the low byte. -/
theorem dataByte_eq_extract (v : Data) : dataByte v = v.extractLsb' 0 8 :=
  (dataByte_eq_lane v).trans (laneByte_eq_extract v 0)

theorem HostRegs.emitData_eq (h : HostRegs) :
    h.emitData = { h with hout := h.hdata.extractLsb' 0 8, hdata := h.hdata >>> 8 } := by
  rw [HostRegs.emitData, dataByte_eq_extract, dataShift]

/-- In a tick cycle the host moves by its rule at a tick. -/
theorem State.hostNext_of_strobe {s : State} (ht : s.strobe = true) (b : Byte) :
    s.hostNext b = s.host.next s.params.hostWidths true s.pins b := by
  rw [State.hostNext, ht]

/-- Settles O31: the rule of each of the four states at a tick. -/
theorem hostSendsTheAddress : Obligations.HostSendsTheAddress := by
  intro s hs ht
  refine ⟨_, step_live hs, ?_⟩
  rw [State.edgeWith_host, State.hostNext_of_strobe ht]
  refine ⟨fun e => ?_, fun e => ?_, fun e => ?_, fun e => ?_⟩
  · exact HostRegs.next_writeCmd _ _ _ _ e
  · exact HostRegs.next_readCmd _ _ _ _ e
  · exact (HostRegs.next_writeAddr _ _ _ _ e).trans s.host.stepWriteAddr_eq
  · exact (HostRegs.next_readAddr _ _ _ _ e).trans s.host.stepReadAddr_eq

/-- Settles O32: the rule of each of the three states at a tick. -/
theorem hostMovesTheData : Obligations.HostMovesTheData := by
  intro s hs ht
  refine ⟨_, step_live hs, ?_⟩
  rw [State.edgeWith_host, State.hostNext_of_strobe ht]
  refine ⟨fun e => ?_, fun e => ?_, fun e => ?_⟩
  · rw [HostRegs.next_writeSel _ _ _ _ e, if_pos rfl, HostRegs.stepWriteSel, HostRegs.emitData_eq]
  · rw [HostRegs.next_writeData _ _ _ _ e, if_pos rfl, HostRegs.stepWriteData_eq, HostRegs.emitData_eq]
  · rw [HostRegs.next_readData _ _ _ _ e, if_pos rfl, HostRegs.stepReadData_eq, e]
    exact ⟨rfl, rfl, rfl, rfl, rfl, rfl⟩

/-! ### The completion cycle -/

/-- In the completion cycle neither a stall is asserted nor the narrow bus driven (R36, R37, R164). -/
theorem HostRegs.silent_of_wishboneAck {h : HostRegs} (e : h.hstate = .wishboneAck) (p : Pins) :
    h.wbStall p = false ∧ h.oe = false := by
  simp [HostRegs.wbStall, HostRegs.oe, e]

/-- Settles O33: the outputs of the completion state, and its rule, which asks for no tick. -/
theorem completionLastsOneCycle : Obligations.CompletionLastsOneCycle := by
  intro s hs e
  obtain ⟨hstall, hoe⟩ := HostRegs.silent_of_wishboneAck e s.pins
  have hnext : (s.edgeWith s.bus).host = s.host.finish := HostRegs.next_wishboneAck _ _ _ _ e
  refine ⟨s.wbAck_iff.mpr e, hstall, hoe, _, step_live hs, hnext, ?_⟩
  rw [State.wbAck, hnext]
  rfl

/-! ### The acknowledgments -/

theorem State.hostAwaitsRead_iff (s : State) :
    s.hostAwaitsRead = true ↔ s.strobe = true ∧ s.host.hstate = .readAck := by
  simp [State.hostAwaitsRead]

theorem State.hostAwaitsWrite_iff (s : State) :
    s.hostAwaitsWrite = true ↔ s.strobe = true ∧ s.host.hstate = .writeAck := by
  simp [State.hostAwaitsWrite]

/-- Settles O15: what the waiting host does with READ_ACK; the rest is the frame of every command. -/
theorem readAckStartsTheCapture : Obligations.ReadAckStartsTheCapture := by
  intro s hs ht hwait
  have hexec := exec_live hs .readAck
  obtain ⟨hparams, hcfg, -, hmem, -⟩ := commandFrame _ _ hs (.inr ⟨_, hexec⟩)
  exact ⟨_, hexec, State.hostNext_of_awaitsRead (s.hostAwaitsRead_iff.mpr ⟨ht, hwait⟩), rfl, hparams, rfl, hcfg, hmem⟩

/-- Settles O16: what the waiting host does with WRITE_ACK, which makes the next cycle the completion cycle; the rest is the
frame of every command. -/
theorem writeAckCompletesTheWrite : Obligations.WriteAckCompletesTheWrite := by
  intro s hs ht hwait
  have hexec := exec_live hs .writeAck
  obtain ⟨hparams, hcfg, -, hmem, -⟩ := commandFrame _ _ hs (.inr ⟨_, hexec⟩)
  have hnext : (s.edgeWith (Instr.byte .writeAck)).host = s.host.takeWriteAck :=
    State.hostNext_of_awaitsWrite (s.hostAwaitsWrite_iff.mpr ⟨ht, hwait⟩)
  have hdone : (s.edgeWith (Instr.byte .writeAck)).host.hstate = .wishboneAck := by rw [hnext]; rfl
  exact ⟨_, hexec, hnext, (State.wbAck_iff _).mpr hdone, (HostRegs.silent_of_wishboneAck hdone _).1, rfl, hparams, rfl,
    hcfg, hmem⟩

/-! ### The request of a busy host -/

/-- The same cycle with the wide-bus request of `q` on the pins. -/
def State.withRequest (s : State) (q : Pins) : State :=
  { s with inputs := { s.pins with
      wbCyc := q.wbCyc, wbStb := q.wbStb, wbWe := q.wbWe, wbAdr := q.wbAdr, wbDatW := q.wbDatW, wbSel := q.wbSel } ::
        s.inputs.tail }

section Request
variable {s : State} (q : Pins)

/-- A busy link is not at rest, whatever the request. -/
theorem State.atRest_of_busy (hbusy : s.host.hstate ≠ .idle) : s.atRest = false := by
  simp [State.atRest, hbusy]

/-- The request reaches the model-level faults through `atRest` only (R320, R321). -/
theorem State.withRequest_stop? (hbusy : s.host.hstate ≠ .idle) : (s.withRequest q).stop? = s.stop? := by
  have hrest : (s.withRequest q).atRest = s.atRest :=
    (State.atRest_of_busy (s := s.withRequest q) hbusy).trans (State.atRest_of_busy hbusy).symm
  rw [State.stop?, State.stop?, hrest]
  rfl

/-- The request reaches the registers through the idle host only (R153, R166). -/
theorem State.withRequest_edgeWith (hbusy : s.host.hstate ≠ .idle) (b : Byte) :
    (s.withRequest q).edgeWith b = s.edgeWith b := by
  have hhost : (s.withRequest q).hostNext b = s.hostNext b := HostRegs.next_pins_irrelevant _ _ _ _ hbusy _
  rw [State.edgeWith, State.edgeWith, hhost]
  rfl

end Request

/-- Settles O34: neither the faults nor the clock edge of a busy host's cycle depend on the request. -/
theorem busyHostIgnoresTheRequest : Obligations.BusyHostIgnoresTheRequest := by
  intro s q hbusy
  change step (s.withRequest q) = step s
  rw [step_eq_cycle, step_eq_cycle, State.withRequest_edgeWith q hbusy, State.cycle, State.withRequest_stop? q hbusy]
  rfl

/-! ### Output bytes -/

/-- Settles O46: both outcomes of a step that goes on, the reset event and the clock edge, meet the invariant. -/
theorem stepKeepsOutputs : Obligations.StepKeepsOutputs := by
  intro s t hs h
  obtain ⟨-, ⟨-, rfl⟩ | ⟨-, -, rfl⟩⟩ := step_next h
  · rfl
  · exact State.outputsFit_edgeWith hs s.bus

end Sys2Proof.Machine
end

section
/-! PROOFS. The Peripheral Controller (spec/43_peripheral.md): the request that opens a frame (R193), the frame it takes
(R194 to R197), the access to the responder (R198, R200, R257) and the answer (R199, R201, R202). -/

namespace Sys2Proof.Machine

/-- In a tick cycle the attached peripheral moves by its rule of a peripheral cycle (R191). -/
theorem State.periphNext_of_tick {s : State} (ht : s.strobe = true) (hatt : s.params.attached = true) (b : Byte) :
    s.periphNext b = s.periph.next s.params.periphWidths b s.pins.rAck s.rDatR := by
  rw [State.periphNext, s.pAdv_iff.mpr ⟨ht, hatt⟩, PeriphRegs.advance_true]

/-! ### The request that opens a frame -/

/-- A command at the idle peripheral: both ends move by their own rules with its byte, and the rest is the frame of every
command, memory included, for an idle peripheral asks for no write. -/
theorem exec_at_idle_peripheral {s : State} (hs : s.live) (ht : s.strobe = true) (hatt : s.params.attached = true)
    (hidle : s.periph.pstate = .idle) (i : Instr) :
    ∃ t, exec i s = .next t ∧ t.periph = s.periph.stepIdle s.params.periphWidths i.byte ∧
      t.host = s.host.next s.params.hostWidths true s.pins i.byte ∧
      t.params = s.params ∧ t.cfg = s.cfg.next s.pins ∧ (s.pins.rbWe = false → t.cfg = s.cfg) ∧
      ∀ k, t.mem.readByte k = s.mem.readByte k := by
  have hexec := exec_live hs i
  obtain ⟨hparams, hcfg, -, hmem, -⟩ := commandFrame _ _ hs (.inr ⟨_, hexec⟩)
  have hperiph : s.periphNext i.byte = s.periph.stepIdle s.params.periphWidths i.byte :=
    (State.periphNext_of_tick ht hatt _).trans (PeriphRegs.next_idle hidle _ _ _ _)
  refine ⟨_, hexec, hperiph, State.hostNext_of_strobe ht _, hparams, rfl, hcfg, hmem ?_⟩
  rintro ⟨-, hwrite, -⟩
  exact absurd (hidle.symm.trans hwrite) (by decide)

/-- Settles O13: the idle peripheral opens a read frame (`PeriphRegs.stepIdle_read`). -/
theorem readOpensAFrame : Obligations.ReadOpensAFrame :=
  fun _ hs ht hatt hidle => exec_at_idle_peripheral hs ht hatt hidle .read

/-- Settles O14: the idle peripheral opens a write frame (`PeriphRegs.stepIdle_write`). -/
theorem writeOpensAFrame : Obligations.WriteOpensAFrame :=
  fun _ hs ht hatt hidle => exec_at_idle_peripheral hs ht hatt hidle .write

/-! ### The frame, byte by byte -/

section Countdown
variable (w : Widths) (b : Byte) (r : PeriphRegs)

/-- WRITE_ADDR and READ_ADDR: at countdown 0 the byte is taken too, and the countdown stays there (R194, R195). -/
theorem PeriphRegs.stepAddr_eq (dest : PState) : r.stepAddr w dest b =
    { r with
      paddr := addrInsert w.a b r.paddr
      pcount := r.pcount - 1
      pstate := if r.pcount ≠ 0 then r.pstate else dest } := by
  by_cases hc : r.pcount = 0 <;> simp [PeriphRegs.stepAddr, hc]

/-- WRITE_DATA: at countdown 0 the byte is taken too, and the countdown stays there (R197). -/
theorem PeriphRegs.stepWriteData_eq : r.stepWriteData w b =
    { r with
      pdata := dataInsert w.d b r.pdata
      pcount := r.pcount - 1
      pstate := if r.pcount ≠ 0 then r.pstate else .writeWishbone } := by
  by_cases hc : r.pcount = 0 <;> simp [PeriphRegs.stepWriteData, hc]

/-- READ_DATA, the end of the countdown as the first case (R202). -/
theorem PeriphRegs.stepReadData_eq : r.stepReadData =
    if r.pcount = 0 then r.close else { r.emitData with pcount := r.pcount - 1 } := by
  simp only [PeriphRegs.stepReadData, ne_eq, ite_not]

theorem PeriphRegs.emitData_eq :
    r.emitData = { r with pout := r.pdata.extractLsb' 0 8, pdata := r.pdata >>> 8 } := by
  rw [PeriphRegs.emitData, dataByte_eq_extract, dataShift]

end Countdown

/-- Settles O35: the rule of each of the four receiving states. -/
theorem peripheralTakesTheFrame : Obligations.PeripheralTakesTheFrame := by
  intro s hs ht hatt
  refine ⟨_, step_live hs, ?_⟩
  rw [State.edgeWith_periph, State.periphNext_of_tick ht hatt]
  refine ⟨?_, fun e => ?_, fun e => ?_⟩
  · rintro (e | e)
    · rw [PeriphRegs.next_writeAddr _ _ _ _ e, PeriphRegs.stepAddr_eq, if_pos e]
      rfl
    · have hne : s.periph.pstate ≠ .writeAddr := e ▸ by decide
      rw [PeriphRegs.next_readAddr _ _ _ _ e, PeriphRegs.stepAddr_eq, if_neg hne]
      rfl
  · exact PeriphRegs.next_writeSel _ _ _ _ e
  · rw [PeriphRegs.next_writeData _ _ _ _ e, PeriphRegs.stepWriteData_eq, e]
    rfl

/-! ### The access to the responder -/

section Access
variable {s : State}

/-- The two states in which the peripheral asks the responder (R39). -/
theorem State.pstate_of_rCyc (hcyc : s.rCyc = true) :
    s.periph.pstate = .writeWishbone ∨ s.periph.pstate = .readWishbone := by
  simpa using s.rCyc_iff.mp hcyc

/-- A peripheral that asks the responder does not drive the narrow bus (R37, R39). -/
theorem State.pOe_of_rCyc (hcyc : s.rCyc = true) : s.pOe = false := by
  obtain e | e := State.pstate_of_rCyc hcyc <;> simp [State.pOe, PeriphRegs.oe, e]

/-- Until the responder acknowledges, the peripheral that asks it waits (R198, R200). -/
theorem State.periphNext_of_no_ack (hcyc : s.rCyc = true) (hack : s.pins.rAck = false) (b : Byte) :
    s.periphNext b = s.periph := by
  cases hadv : s.pAdv with
  | false => exact State.periphNext_hold hadv b
  | true =>
    rw [State.periphNext, hadv, hack, PeriphRegs.advance_true]
    obtain e | e := State.pstate_of_rCyc hcyc
    · exact PeriphRegs.next_writeWishbone _ _ _ _ e
    · exact PeriphRegs.next_readWishbone _ _ _ _ e

/-- What every byte reads as after a peripheral cycle in WRITE_WISHBONE (R257). -/
theorem State.readByte_memNext_of_writeWishbone (hadv : s.pAdv = true) (hstate : s.periph.pstate = .writeWishbone)
    (hnd : s.params.periphWidths.nd ≤ 8) (hm : s.mem.wf = true) (k : Nat) :
    s.memNext.readByte k =
      if s.pins.rAck = true ∧ k / 8 = s.rAdr ∧ k % 8 < s.params.periphWidths.nd ∧
          s.rSel.getLsbD (k % 8) = true then
        laneByte s.rDatW (k % 8)
      else s.mem.readByte k := by
  by_cases hack : s.pins.rAck = true
  · rw [State.memNext_eq, if_pos ⟨hadv, hstate, hack⟩, Memory.readByte_writeWord_lane _ _ _ hnd _ hm]
    simp only [hack, true_and]
  · rw [State.memNext_of_no_ack (eq_false_of_ne_true hack), if_neg fun hk => hack hk.1]

/-- A read asks for every byte of the word (R39). -/
theorem State.toNat_rSel_of_read (hnd : s.params.periphWidths.nd ≤ 8) (hstate : s.periph.pstate = .readWishbone) :
    s.rSel.toNat = 2 ^ s.params.periphWidths.nd - 1 := by
  have hpow : 2 ^ s.params.periphWidths.nd ≤ 2 ^ 8 := Nat.pow_le_pow_right (by decide) hnd
  have hne : s.periph.pstate ≠ .writeWishbone := hstate ▸ by decide
  rw [State.rSel_eq, if_neg hne, BitVec.toNat_ofNat, Nat.mod_eq_of_lt (by omega)]

/-- A byte of the word the responder presents: of the memory's word at `r_adr`, or of the other word (R257 (b)). -/
theorem State.laneByte_rDatR (hnd : s.params.periphWidths.nd ≤ 8) {i : Nat} (hi : i < s.params.periphWidths.nd) :
    laneByte s.rDatR i = s.pins.rDatR.elim (s.mem.readByte (byteKey s.rAdr i)) (laneByte · i) := by
  unfold State.rDatR
  cases s.pins.rDatR with
  | some q => rfl
  | none => exact (Memory.laneByte_readWord _ _ _ _ hnd).trans (if_pos hi)

end Access

/-- A truncation keeps the bytes that lie below it. -/
theorem laneByte_lowData {d i : Nat} (hi : 8 * i + 8 ≤ d) (v : Data) : laneByte (lowData d v) i = laneByte v i := by
  apply BitVec.eq_of_getLsbD_eq
  intro j hj
  simp only [laneByte, BitVec.getLsbD_setWidth, BitVec.getLsbD_ushiftRight, getLsbD_lowData]
  by_cases h64 : 8 * i + j < 64
  · simp [h64, show 8 * i + j < d by omega]
  · simp [h64, BitVec.getLsbD_of_ge v (8 * i + j) (by omega)]

/-- Settles O36: the signals of WRITE_WISHBONE, its rule with and without the acknowledge, and the word written. -/
theorem acknowledgedWriteIsPerformed : Obligations.AcknowledgedWriteIsPerformed := by
  intro s hs ht hatt e hm
  have ⟨hp, _, _⟩ := hs
  obtain ⟨-, hwp, -⟩ := refusalOf_none.mp hp
  obtain ⟨-, -, -, -, hnd⟩ := widths_wf hwp
  have hadv : s.pAdv = true := s.pAdv_iff.mpr ⟨ht, hatt⟩
  have hcyc : s.rCyc = true := s.rCyc_iff.mpr (by simp [e])
  have hsel : s.rSel = s.periph.psel := s.rSel_eq.trans (if_pos e)
  refine ⟨hcyc, hcyc, s.rWe_iff.mpr e, rfl, rfl, hsel, State.pOe_of_rCyc hcyc, _, step_live hs, ?_, fun k => ?_⟩
  · rw [State.edgeWith_periph]
    split_ifs with hack
    · exact State.periphNext_writeAcked _ hadv hack e
    · exact State.periphNext_of_no_ack hcyc (eq_false_of_ne_true hack) _
  · rw [State.edgeWith_mem, State.readByte_memNext_of_writeWishbone hadv e hnd hm, hsel, laneByte_eq_extract]
    rfl

/-- Settles O37: the signals of READ_WISHBONE, its rule with and without the acknowledge, and the bytes of the word
presented, none of which the truncation to `D` bits cuts off. -/
theorem acknowledgedReadIsCaptured : Obligations.AcknowledgedReadIsCaptured := by
  intro s hs ht hatt e
  have ⟨hp, _, _⟩ := hs
  obtain ⟨-, hwp, -⟩ := refusalOf_none.mp hp
  obtain ⟨-, -, hd, -, hnd⟩ := widths_wf hwp
  have hadv : s.pAdv = true := s.pAdv_iff.mpr ⟨ht, hatt⟩
  have hcyc : s.rCyc = true := s.rCyc_iff.mpr (by simp [e])
  have hne : s.periph.pstate ≠ .writeWishbone := e ▸ by decide
  refine ⟨hcyc, hcyc, eq_false_of_ne_true (mt s.rWe_iff.mp hne), rfl, State.toNat_rSel_of_read hnd e, rfl,
    State.pOe_of_rCyc hcyc, _, step_live hs, State.memNext_of_ne hne, fun hack => ?_, fun hack => ?_⟩
  · exact State.periphNext_of_no_ack hcyc hack _
  · rw [State.edgeWith_periph, State.periphNext_readAcked _ hadv hack e]
    refine ⟨rfl, fun i hi => ?_⟩
    have hcaptured : laneByte (lowData s.params.periphWidths.d s.rDatR) i = laneByte s.rDatR i :=
      laneByte_lowData (by omega) _
    rw [PeriphRegs.readAcked, ← laneByte_eq_extract, hcaptured, State.laneByte_rDatR hnd hi]
    cases s.pins.rDatR with
    | some q => exact laneByte_eq_extract q i
    | none => rfl

/-! ### The answer -/

/-- Settles O38: the rule of each of the three driving states. -/
theorem peripheralSendsTheAnswer : Obligations.PeripheralSendsTheAnswer := by
  intro s hs ht hatt
  refine ⟨_, step_live hs, ?_⟩
  rw [State.edgeWith_periph, State.periphNext_of_tick ht hatt]
  refine ⟨fun e => ?_, fun e => ?_, fun e => ?_⟩
  · exact PeriphRegs.next_writeAck _ _ _ _ e
  · rw [PeriphRegs.next_readAck _ _ _ _ e, PeriphRegs.startData, PeriphRegs.emitData_eq]
  · rw [PeriphRegs.next_readData _ _ _ _ e, PeriphRegs.stepReadData_eq, PeriphRegs.emitData_eq]
    rfl

end Sys2Proof.Machine
end

section
/-! PROOFS. The Configuration Register File (spec/44_config_regs.md): the word a read shows (R231), the two writes
(R232, R234) and the cycle without a write (R233, R235). -/

namespace Sys2Proof.Machine

/-! ### Reading -/

/-- CONFIG as a word, its fields side by side (R32). -/
theorem ConfigRegs.configWord_eq (c : ConfigRegs) : c.configWord = 0#28 ++ BitVec.ofBool c.cfgEn ++ c.cfgDiv := by
  unfold ConfigRegs.configWord
  generalize c.cfgDiv = d, c.cfgEn = e
  revert d e
  decide

/-- Settles O29: `rb_adr[2]` decides the word shown, and CONFIG's is its fields side by side. -/
theorem registerReadShowsHeldValue : Obligations.RegisterReadShowsHeldValue := by
  intro s
  rw [State.rbDatR, ConfigRegs.read, sameWord_config, ConfigRegs.configWord_eq]
  cases s.pins.rbAdr.getLsbD 2 with
  | false => rfl
  | true => rfl

/-! ### Writing -/

section Write
variable {p : Pins} (hwe : p.rbWe = true) (c : ConfigRegs)
include hwe

/-- A write presented to CONFIG (R232). -/
theorem ConfigRegs.next_of_configWrite (hadr : p.rbAdr.getLsbD 2 = false) :
    c.next p = if p.rbSel.getLsbD 0 = true then ⟨p.rbDatW.extractLsb' 0 3, p.rbDatW.getLsbD 3, c.status⟩ else c := by
  have hconfig : sameWord Config.cfgOffset p.rbAdr = true := by simp only [sameWord_config, hadr, Bool.not_false]
  simp [ConfigRegs.next, Pins.writesConfig, hwe, hconfig, Pins.newDiv_eq_extract, Pins.newEn_eq]

/-- A write presented to STATUS (R234). -/
theorem ConfigRegs.next_of_statusWrite (hadr : p.rbAdr.getLsbD 2 = true) :
    c.next p = { c with status := mergeStatus c.status p.rbDatW p.rbSel } := by
  have hstatus : sameWord Config.cfgOffset p.rbAdr = false := by simp only [sameWord_config, hadr, Bool.not_true]
  simp [ConfigRegs.next, Pins.writesConfig, hwe, hstatus]

end Write

/-- Settles O26: the clock edge of a live cycle moves the register file by the rule of a CONFIG write. -/
theorem configWriteLandsNextCycle : Obligations.ConfigWriteLandsNextCycle :=
  fun s hs hwe hadr => ⟨_, step_live hs, ConfigRegs.next_of_configWrite hwe s.cfg hadr⟩

/-! ### The byte lanes of STATUS -/

theorem mergeLane_eq_extract (old new : BitVec 32) (sel : BitVec 4) (i : Nat) :
    mergeLane old new sel i =
      if sel.getLsbD i then new.extractLsb' (8 * i) 8 else old.extractLsb' (8 * i) 8 := by
  rw [mergeLane, BitVec.setWidth_ushiftRight_eq_extractLsb, BitVec.setWidth_ushiftRight_eq_extractLsb]

/-- Byte `i` of the merged word is lane `i`. -/
theorem mergeStatus_extract (old new : BitVec 32) (sel : BitVec 4) {i : Nat} (hi : i < 4) :
    (mergeStatus old new sel).extractLsb' (8 * i) 8 = mergeLane old new sel i := by
  unfold mergeStatus
  match i with
  | 0 => exact BitVec.extractLsb'_append_eq_right
  | 1 => rw [BitVec.extractLsb'_append_eq_of_le (by omega)]; exact BitVec.extractLsb'_append_eq_right
  | 2 =>
    rw [BitVec.extractLsb'_append_eq_of_le (by omega), BitVec.extractLsb'_append_eq_of_le (by omega)]
    exact BitVec.extractLsb'_append_eq_right
  | 3 =>
    rw [BitVec.extractLsb'_append_eq_of_le (by omega), BitVec.extractLsb'_append_eq_of_le (by omega)]
    exact BitVec.extractLsb'_append_eq_left

/-! ### The same cycle without the write -/

/-- The same cycle with no write on the register bus. -/
def State.withoutRegWrite (s : State) : State :=
  { s with inputs := { s.pins with rbWe := false } :: s.inputs.tail }

/-- In a live cycle the two ends do not drive together (R252). -/
theorem State.not_both_drive_of_live {s : State} (hs : s.live) : ¬ (s.hOe = true ∧ s.pOe = true) := by
  obtain ⟨-, -, hstop⟩ := hs
  rw [← State.driver_both]
  intro hd
  simp [State.stop?, hd] at hstop

/-- A live cycle is live without its write too: taking a write away adds no fault. -/
theorem State.withoutRegWrite_live {s : State} (hs : s.live) : s.withoutRegWrite.live := by
  have hdrive := State.not_both_drive_of_live hs
  have ⟨hp, hr, _⟩ := hs
  exact State.live_of_quiet (s := s.withoutRegWrite) hp hr rfl hdrive

theorem State.withoutRegWrite_bus (s : State) : s.withoutRegWrite.bus = s.bus := rfl

/-- The register bus reaches the register file only (R235). -/
theorem State.withoutRegWrite_edgeWith (s : State) (b : Byte) :
    s.withoutRegWrite.edgeWith b = { s.edgeWith b with cfg := s.cfg } := by
  have hcfg : s.withoutRegWrite.cfg.next s.withoutRegWrite.pins = s.cfg := ConfigRegs.next_hold rfl _
  rw [State.edgeWith, State.edge, hcfg]
  rfl

/-- Settles O28: the rule of a STATUS write at the clock edge of a live cycle, lane by lane, and the clock edge of the same
cycle without the write. -/
theorem statusWriteReplacesSelectedBytes : Obligations.StatusWriteReplacesSelectedBytes := by
  intro s hs hwe hadr
  refine ⟨_, step_live hs, ?_⟩
  rw [State.edgeWith_cfg, ConfigRegs.next_of_statusWrite hwe s.cfg hadr]
  refine ⟨rfl, rfl, ?_, fun i hi => ?_⟩
  · change step s.withoutRegWrite = _
    rw [step_live (State.withoutRegWrite_live hs), State.withoutRegWrite_bus, State.withoutRegWrite_edgeWith]
  · rw [mergeStatus_extract _ _ _ hi, mergeLane_eq_extract]

end Sys2Proof.Machine
end

section
/-! PROOFS. The link of two controllers in step (spec/45_link_and_transactions.md R252, R254) and the model-level faults
(spec/70_reset_and_hazards.md R320, R321). -/

namespace Sys2Proof.Machine

/-! ### The byte on the bus -/

/-- Settles O42: one clause for each driver, and the reset state's output byte. -/
theorem busCarriesTheDriversByte : Obligations.BusCarriesTheDriversByte := by
  intro s _
  refine ⟨fun hoe hpoe => ?_, fun hoe hpoe => ?_, fun hoe hpoe b hb => ?_, fun hrst => ?_⟩
  · simp [State.bus, State.driver, hoe, hpoe]
  · simp [State.bus, State.driver, hoe, hpoe]
  · rw [(State.bus_of_nobody hoe hpoe).2, State.floatByte, hb, Option.getD_some]
  · rw [State.shown_of_reset hrst]
    exact (State.bus_of_host rfl rfl).2

/-! ### A link in step -/

/-- Two reset controllers are in step (R290). -/
theorem State.inSync_of_reset {s : State} (hatt : s.params.attached = true)
    (hw : s.params.hostWidths = s.params.periphWidths) (hh : s.host = HostRegs.reset) (hr : s.periph = PeriphRegs.reset) :
    s.inSync := by
  refine ⟨hatt, hw, ?_, ?_⟩
  · rw [State.outputsFit, hh, hr]
    rfl
  · rw [State.phasesAgree, hh, hr]
    rfl

/-- Settles O47: the reset state's controllers are the reset ones. -/
theorem resetLinkInStep : Obligations.ResetLinkInStep :=
  fun _ hatt hw => State.inSync_of_reset hatt hw rfl rfl

/-- Settles O48: a step is the reset event or the clock edge, and each leaves the link in step. -/
theorem stepKeepsLinkInStep : Obligations.StepKeepsLinkInStep := by
  intro s t hs hf h
  obtain ⟨-, ⟨-, rfl⟩ | ⟨-, -, rfl⟩⟩ := step_next h
  · have ⟨hatt, hw, _, _⟩ := hs
    exact State.inSync_of_reset hatt hw rfl rfl
  · exact State.inSync_edgeWith hs hf

/-! ### The model-level faults -/

/-- A step faults exactly as `State.stop?` says, in a configuration that is run and without reset. -/
theorem step_fault_iff (s : State) (f : Fault) :
    step s = .fault f ↔ refusalOf s.params = none ∧ s.pins.rst = false ∧ s.stop? = some f := by
  rw [step_eq_cycle, State.cycle_fault_iff]

/-! Which fault `State.stop?` reports: the first that holds. -/

theorem State.stop?_eq_busContention_iff (s : State) : s.stop? = some .busContention ↔ s.driver = .both := by
  unfold State.stop?
  split_ifs with hboth <;> simp [hboth]

theorem State.stop?_eq_unsafeDivisorChange_iff (s : State) :
    s.stop? = some .unsafeDivisorChange ↔
      s.driver ≠ .both ∧ s.cfg.divisorChanges s.pins = true ∧ s.atRest = false := by
  simp only [State.stop?, Bool.and_eq_true, Bool.not_eq_true']
  split_ifs with hboth hdiv hen
  · simp [hboth]
  · simp [hboth, hdiv]
  · simp only [hdiv, and_false]
    simp
  · simp [hboth, hdiv]

theorem State.stop?_eq_unsafeEnableChange_iff (s : State) :
    s.stop? = some .unsafeEnableChange ↔
      s.driver ≠ .both ∧ ¬ (s.cfg.divisorChanges s.pins = true ∧ s.atRest = false) ∧
        s.cfg.enableCleared s.pins = true ∧ s.atRest = false := by
  simp only [State.stop?, Bool.and_eq_true, Bool.not_eq_true']
  split_ifs with hboth hdiv hen
  · simp [hboth]
  · simp [hdiv]
  · exact ⟨fun _ => ⟨hboth, hdiv, hen⟩, fun _ => rfl⟩
  · simp [hen]

/-- Settles O49: a step that ends in contention is one in which both ends drive. -/
theorem linkInStepHasNoContention : Obligations.LinkInStepHasNoContention := by
  rintro s ⟨-, -, -, hph⟩
  have hdrive := State.not_both_drive hph
  refine ⟨hdrive, fun hfault => ?_⟩
  obtain ⟨-, -, hstop⟩ := (step_fault_iff s _).mp hfault
  exact hdrive (State.driver_both.mp (s.stop?_eq_busContention_iff.mp hstop))

/-- The situations in which CONFIG may not be changed (R320, R321). -/
theorem State.atRest_eq_false_iff (s : State) :
    s.atRest = false ↔
      s.host.hstate ≠ .idle ∨ s.periph.pstate ≠ .idle ∨ s.pins.wbCyc = true ∧ s.pins.wbStb = true := by
  rw [← Pins.pending_iff, ← Bool.not_eq_true]
  simp only [State.atRest, Bool.and_eq_true, beq_iff_eq, Bool.not_eq_true']
  cases s.pins.pending <;> simp
  tauto

theorem ConfigRegs.divisorChanges_iff (c : ConfigRegs) (p : Pins) :
    c.divisorChanges p = true ↔
      (p.rbWe = true ∧ p.rbAdr.getLsbD 2 = false ∧ p.rbSel.getLsbD 0 = true) ∧ p.rbDatW.extractLsb' 0 3 ≠ c.cfgDiv := by
  simp only [ConfigRegs.divisorChanges, Bool.and_eq_true, Pins.writesConfig_iff, bne_iff_ne, Pins.newDiv_eq_extract]

theorem ConfigRegs.enableCleared_iff (c : ConfigRegs) (p : Pins) :
    c.enableCleared p = true ↔
      (p.rbWe = true ∧ p.rbAdr.getLsbD 2 = false ∧ p.rbSel.getLsbD 0 = true) ∧ c.cfgEn = true ∧
        p.rbDatW.getLsbD 3 = false := by
  simp only [ConfigRegs.enableCleared, Bool.and_eq_true, Pins.writesConfig_iff, Bool.not_eq_true', Pins.newEn_eq,
    and_assoc]

/-- Settles O54: each of the three faults, its conditions in the terms of the pins and states. -/
theorem faultsExactlyAsNamed : Obligations.FaultsExactlyAsNamed := by
  intro s f
  rw [step_fault_iff]
  cases f with
  | busContention => rw [State.stop?_eq_busContention_iff, State.driver_both]
  | unsafeDivisorChange =>
    rw [State.stop?_eq_unsafeDivisorChange_iff, ne_eq, State.driver_both, ConfigRegs.divisorChanges_iff,
      State.atRest_eq_false_iff]
  | unsafeEnableChange =>
    rw [State.stop?_eq_unsafeEnableChange_iff, ne_eq, State.driver_both, ConfigRegs.divisorChanges_iff,
      ConfigRegs.enableCleared_iff, State.atRest_eq_false_iff]

end Sys2Proof.Machine
end

section
/-! PROOFS. A frame at the end that receives it: the request at the peripheral (spec/43_peripheral.md R193 to R197), the
answer at the host (spec/42_host.md R160 to R163), and the write data a sending host has left (R158, R159). -/

namespace Sys2Proof.Machine

/-! ### A request at the peripheral -/

/-- A peripheral cycle with the byte `b` on the bus, the responder giving no answer. -/
def PeriphRegs.hear (w : Widths) (r : PeriphRegs) (b : Byte) : PeriphRegs := r.next w b false 0

/-- A peripheral that does not ask the responder does not look at the answer (R198, R200). -/
theorem PeriphRegs.next_eq_hear {r : PeriphRegs} (e : r.rCyc = false) (w : Widths) (b : Byte) (ack : Bool) (q : Data) :
    r.next w b ack q = r.hear w b := by
  unfold PeriphRegs.hear PeriphRegs.next
  cases hstate : r.pstate with
  | writeWishbone | readWishbone => simp [PeriphRegs.rCyc, hstate] at e
  | idle | writeAddr | writeSel | writeData | writeAck | readAddr | readAck | readData => rfl

section Request
variable {w : Widths} {r : PeriphRegs}

/-- The peripheral that receives an address takes its bytes up to the end of the countdown (R194, R195). -/
theorem PeriphRegs.foldl_hear_addr {dest : PState} {bytes : List Byte}
    (hr : (r.pstate = .writeAddr ∧ dest = .writeSel) ∨ (r.pstate = .readAddr ∧ dest = .readWishbone))
    (hlen : bytes.length = r.pcount + 1) :
    bytes.foldl (PeriphRegs.hear w) r =
      { r with
        paddr := bytes.foldl (fun v b => addrInsert w.a b v) r.paddr
        pcount := 0
        pstate := dest } := by
  induction bytes generalizing r with
  | nil => simp at hlen
  | cons b bytes ih =>
    have hbyte : r.hear w b = r.stepAddr w dest b := by
      obtain ⟨e, rfl⟩ | ⟨e, rfl⟩ := hr
      · exact PeriphRegs.next_writeAddr _ _ _ _ e
      · exact PeriphRegs.next_readAddr _ _ _ _ e
    rw [List.length_cons] at hlen
    rw [List.foldl_cons, List.foldl_cons, hbyte, PeriphRegs.stepAddr]
    split_ifs with hc
    · have hnil : bytes = [] := List.eq_nil_of_length_eq_zero (by omega)
      rw [hnil, hc]
      rfl
    · exact ih hr (by simp only; omega)

/-- The peripheral that receives write data takes its bytes up to the end of the countdown (R197). -/
theorem PeriphRegs.foldl_hear_data {bytes : List Byte} (hr : r.pstate = .writeData)
    (hlen : bytes.length = r.pcount + 1) :
    bytes.foldl (PeriphRegs.hear w) r =
      { r with
        pdata := bytes.foldl (fun v b => dataInsert w.d b v) r.pdata
        pcount := 0
        pstate := .writeWishbone } := by
  induction bytes generalizing r with
  | nil => simp at hlen
  | cons b bytes ih =>
    have hbyte : r.hear w b = r.stepWriteData w b := PeriphRegs.next_writeData _ _ _ _ hr
    rw [List.length_cons] at hlen
    rw [List.foldl_cons, List.foldl_cons, hbyte, PeriphRegs.stepWriteData]
    split_ifs with hc
    · have hnil : bytes = [] := List.eq_nil_of_length_eq_zero (by omega)
      rw [hnil, hc]
      rfl
    · exact ih hr (by simp only; omega)

/-- A request opens its frame, and the bytes of its address leave the address register with the address (R193 to R195). -/
theorem PeriphRegs.foldl_hear_command (hw : w.wf = true) {a : Nat} (ha : a < 2 ^ w.a) {i : Instr} {state dest : PState}
    (hopen : r.hear w i.byte = r.openFrame w state)
    (hdest : (state = .writeAddr ∧ dest = .writeSel) ∨ (state = .readAddr ∧ dest = .readWishbone)) :
    (i.byte :: bytesOfNat w.na a).foldl (PeriphRegs.hear w) r =
      { r with pout := 0, paddr := a, pcount := 0, pstate := dest } := by
  obtain ⟨-, hna, -⟩ := widths_wf hw
  have haddr : (bytesOfNat w.na a).foldl (fun v b => addrInsert w.a b v) 0 = a :=
    addressBytesAssemble w a 0 hw ha (Nat.two_pow_pos _)
  have hlen : (bytesOfNat w.na a).length = w.na - 1 + 1 := by rw [length_bytesOfNat]; omega
  rw [List.foldl_cons, hopen, PeriphRegs.foldl_hear_addr hdest hlen]
  simp only [PeriphRegs.openFrame, haddr]

/-- An idle peripheral that hears a read request asks the responder for the addressed word (R193, R195). -/
theorem PeriphRegs.foldl_hear_read (hw : w.wf = true) (hidle : r.pstate = .idle) {a : Nat}
    (hf : (Frame.read a).wf w = true) :
    (encodeFrame w (.read a)).foldl (PeriphRegs.hear w) r =
      { r with pout := 0, paddr := a, pcount := 0, pstate := .readWishbone } :=
  PeriphRegs.foldl_hear_command hw (of_decide_eq_true hf) (PeriphRegs.next_idle hidle _ _ _ _) (.inr ⟨rfl, rfl⟩)

/-- An idle peripheral that hears a write request asks the responder to write its data (R193, R194, R196, R197). -/
theorem PeriphRegs.foldl_hear_write (hw : w.wf = true) (hidle : r.pstate = .idle) (hdata : r.pdata.toNat < 2 ^ w.d)
    {a : Nat} {sel : Select} {d : Data} (hf : (Frame.write a sel d).wf w = true) :
    (encodeFrame w (.write a sel d)).foldl (PeriphRegs.hear w) r =
      ⟨.writeWishbone, a, d, sel, 0, 0⟩ := by
  obtain ⟨-, -, -, hnd, -⟩ := widths_wf hw
  simp only [Frame.wf, Bool.and_eq_true, decide_eq_true_eq, and_assoc] at hf
  obtain ⟨hfa, hfs, hfd⟩ := hf
  have hlen : (bytesOfNat w.nd d.toNat).length = w.nd - 1 + 1 := by rw [length_bytesOfNat]; omega
  have haddr : (Instr.byte .write :: bytesOfNat w.na a).foldl (PeriphRegs.hear w) r =
      { r with pout := 0, paddr := a, pcount := 0, pstate := .writeSel } :=
    PeriphRegs.foldl_hear_command hw hfa (PeriphRegs.next_idle hidle _ _ _ _) (.inl ⟨rfl, rfl⟩)
  have hsel (r' : PeriphRegs) (e : r'.pstate = .writeSel) : r'.hear w sel = r'.stepWriteSel w sel :=
    PeriphRegs.next_writeSel _ _ _ _ e
  rw [encodeFrame, ← List.cons_append, List.foldl_append, haddr, List.foldl_cons, hsel _ rfl,
    PeriphRegs.foldl_hear_data rfl hlen]
  simp only [PeriphRegs.stepWriteSel, lowSelect_of_lt hfs, dataBytesAssemble w d _ hw hfd hdata]

end Request

/-! ### An answer at the host -/

/-- At a tick a busy host moves by the rule of its state (R152). -/
theorem HostRegs.next_eq_atTick {h : HostRegs} (h₁ : h.hstate ≠ .idle) (h₂ : h.hstate ≠ .wishboneAck) (w : Widths)
    (p : Pins) (b : Byte) : h.next w true p b = h.atTick w b := by
  unfold HostRegs.next
  split
  · contradiction
  · contradiction
  · rfl

section Answer
variable {w : Widths} {h : HostRegs}

/-- The host that receives read data takes its bytes up to the end of the countdown (R163). -/
theorem HostRegs.foldl_atTick_data {bytes : List Byte} (hh : h.hstate = .readData)
    (hlen : bytes.length = h.hcount + 1) :
    bytes.foldl (fun h b => h.atTick w b) h =
      { h with
        hdata := bytes.foldl (fun v b => dataInsert w.d b v) h.hdata
        hcount := 0
        hstate := .wishboneAck } := by
  induction bytes generalizing h with
  | nil => simp at hlen
  | cons b bytes ih =>
    have hbyte : h.atTick w b = h.stepReadData w b := by simp only [HostRegs.atTick, hh]
    rw [List.length_cons] at hlen
    rw [List.foldl_cons, List.foldl_cons, hbyte, HostRegs.stepReadData]
    split_ifs with hc
    · have hnil : bytes = [] := List.eq_nil_of_length_eq_zero (by omega)
      rw [hnil, hc]
      rfl
    · exact ih hh (by simp only; omega)

/-- A host that waits for a read and hears the response completes with its word (R162, R163). -/
theorem HostRegs.foldl_atTick_readAck (hw : w.wf = true) (hh : h.hstate = .readAck) {d : Data}
    (hd : d.toNat < 2 ^ w.d) :
    (encodeFrame w (.readAck d)).foldl (fun h b => h.atTick w b) h =
      { h with hdata := d, hcount := 0, hstate := .wishboneAck } := by
  obtain ⟨-, -, -, hnd, -⟩ := widths_wf hw
  have hack : h.atTick w (Instr.byte .readAck) = h.takeReadAck w := by
    simp only [HostRegs.atTick, hh]
    rfl
  have hlen : (bytesOfNat w.nd d.toNat).length = w.nd - 1 + 1 := by rw [length_bytesOfNat]; omega
  rw [encodeFrame, List.foldl_cons, hack, HostRegs.foldl_atTick_data rfl hlen]
  simp only [HostRegs.takeReadAck, dataBytesAssemble w d 0 hw hd (Nat.two_pow_pos _)]

/-- A host that waits for a write and hears the response completes (R160). -/
theorem HostRegs.foldl_atTick_writeAck (hh : h.hstate = .writeAck) :
    (encodeFrame w .writeAck).foldl (fun h b => h.atTick w b) h = h.takeWriteAck := by
  simp only [encodeFrame, List.foldl_cons, List.foldl_nil, HostRegs.atTick, hh]
  rfl

end Answer

/-! ### The write data left in the host -/

/-- The bytes of its data register a host has still to send in a write; in the states that send none of it, a full
register. -/
def HostRegs.dataLeft (w : Widths) (h : HostRegs) : Nat :=
  match h.hstate with
  | .writeCmd | .writeAddr | .writeSel => w.nd
  | .writeData => h.hcount
  | .writeAck => 0
  | .idle | .readCmd | .readAddr | .readAck | .readData | .wishboneAck => 8

/-- The data register holds no more than the bytes left to send. -/
abbrev HostRegs.dataFits (w : Widths) (h : HostRegs) : Prop := h.hdata.toNat < 256 ^ h.dataLeft w

section DataLeft
variable {w : Widths} {h : HostRegs}

/-- Any register holds no more than eight bytes. -/
theorem HostRegs.dataFits_of_full (e : h.dataLeft w = 8) : h.dataFits w := by
  rw [HostRegs.dataFits, e]
  exact h.hdata.isLt

/-- A byte sent is a byte less (R158, R159). -/
theorem toNat_dataShift_lt {v : Data} {n : Nat} (hn : n ≠ 0) (hv : v.toNat < 256 ^ n) :
    (dataShift v).toNat < 256 ^ (n - 1) := by
  rw [dataShift, BitVec.toNat_ushiftRight, Nat.shiftRight_eq_div_pow]
  apply Nat.div_lt_of_lt_mul
  rwa [← mul_pow_sub_one hn] at hv

/-- Every tick keeps the data register within the bytes left to send. -/
theorem HostRegs.dataFits_atTick (hw : w.wf = true) (hh : h.dataFits w) (b : Byte) : (h.atTick w b).dataFits w := by
  obtain ⟨-, -, -, hnd, -⟩ := widths_wf hw
  unfold HostRegs.atTick
  cases e : h.hstate with
  | idle | wishboneAck => exact hh
  | writeCmd => simpa [HostRegs.dataFits, HostRegs.dataLeft, HostRegs.startAddr, HostRegs.emitAddr, e] using hh
  | writeAddr =>
    by_cases hc : h.hcount = 0 <;>
      simpa [HostRegs.dataFits, HostRegs.dataLeft, HostRegs.stepWriteAddr, HostRegs.emitAddr, e, hc] using hh
  | writeSel =>
    simp only [HostRegs.dataFits, HostRegs.dataLeft, e] at hh
    exact toNat_dataShift_lt hnd.ne' hh
  | writeData =>
    simp only [HostRegs.dataFits, HostRegs.dataLeft, e] at hh
    dsimp only [HostRegs.stepWriteData]
    split_ifs with hc
    · simpa [HostRegs.dataFits, HostRegs.dataLeft, HostRegs.emitData, e] using toNat_dataShift_lt hc hh
    · rwa [not_not.mp hc] at hh
  | writeAck =>
    dsimp only
    split_ifs
    · exact HostRegs.dataFits_of_full rfl
    · exact hh
  | readCmd => exact HostRegs.dataFits_of_full rfl
  | readAddr =>
    dsimp only [HostRegs.stepReadAddr]
    split_ifs <;> exact HostRegs.dataFits_of_full (by simp [HostRegs.dataLeft, HostRegs.emitAddr, e])
  | readAck =>
    dsimp only
    split_ifs
    · exact HostRegs.dataFits_of_full rfl
    · exact hh
  | readData =>
    dsimp only [HostRegs.stepReadData]
    split_ifs <;> exact HostRegs.dataFits_of_full (by simp [HostRegs.dataLeft, e])

/-- Every cycle keeps the data register within the bytes left to send. -/
theorem HostRegs.dataFits_next (hw : w.wf = true) (hh : h.dataFits w) (tick : Bool) (p : Pins) (b : Byte) :
    (h.next w tick p b).dataFits w := by
  unfold HostRegs.next
  split
  · rename_i e
    obtain ⟨-, -, hd, -⟩ := widths_wf hw
    unfold HostRegs.stepIdle
    split_ifs
    · change (lowData w.d p.wbDatW).toNat < 256 ^ w.nd
      rw [← pow_bits_eq, ← hd]
      exact lowData_lt ..
    · exact HostRegs.dataFits_of_full rfl
    · exact HostRegs.dataFits_of_full (by simp [HostRegs.dataLeft, HostRegs.rest, e])
  · exact HostRegs.dataFits_of_full rfl
  · split_ifs
    · exact HostRegs.dataFits_atTick hw hh b
    · exact hh

/-- A host that waits for the answer to a write has sent all its data. -/
theorem HostRegs.hdata_of_writeAck (hh : h.dataFits w) (e : h.hstate = .writeAck) : h.hdata = 0 := by
  simp only [HostRegs.dataFits, HostRegs.dataLeft, e] at hh
  exact BitVec.eq_of_toNat_eq (Nat.lt_one_iff.mp hh)

end DataLeft

/-! ### The word a read returns -/

/-- A word of `n` bytes fits `n` bytes (20_memory.md R63). -/
theorem Memory.readWord_lt (m : Memory) (a : Nat) {n : Nat} (hn : n ≤ 8) :
    (m.readWord a n).toNat < 2 ^ (8 * n) := by
  rw [toNat_lt_iff]
  intro i hi
  by_cases h64 : 64 ≤ i
  · exact BitVec.getLsbD_of_ge _ _ h64
  · have hlane := Memory.laneByte_readWord m a n (i / 8) hn
    rw [if_neg (by omega)] at hlane
    have hbit := congrArg (fun b => b.getLsbD (i % 8)) hlane
    simpa [laneByte, Nat.div_add_mod, Nat.mod_lt] using hbit

end Sys2Proof.Machine
end

section
/-! PROOFS. Whole transactions (spec/45_link_and_transactions.md R260, R261, R264), one bus period after the other: the request
on the wire, the responder's wait, the answer. -/

namespace Sys2Proof.Machine

/-! ### A tick in a link in step -/

section Tick
variable {s : State}

/-- While an end sends, the peripheral asks for nothing. -/
theorem State.rCyc_of_toSend (hs : s.inSync) {who : Driver} (e : s.toSend who ≠ []) : s.rCyc = false := by
  obtain ⟨-, -, -, hph⟩ := hs
  rw [State.rCyc, PeriphRegs.rCyc]
  cases who with
  | host =>
    unfold State.toSend HostRegs.toSend at e
    cases State.phase hph <;> simp_all
  | periph =>
    unfold State.toSend PeriphRegs.toSend at e
    cases State.phase hph <;> simp_all
  | nobody | both => exact absurd rfl e

/-- Without a request to the responder the memory holds. -/
theorem State.memNext_of_not_asking (h : s.rCyc = false) : s.memNext = s.mem := by
  refine State.memNext_of_ne fun e => ?_
  simp [State.rCyc, PeriphRegs.rCyc, e] at h

/-- While the peripheral asks the responder, the host waits for the answer. -/
theorem State.phase_of_asking (hs : s.inSync) (h : s.rCyc = true) :
    (s.host.hstate = .writeAck ∧ s.periph.pstate = .writeWishbone) ∨
      (s.host.hstate = .readAck ∧ s.periph.pstate = .readWishbone) := by
  obtain ⟨-, -, -, hph⟩ := hs
  rw [State.rCyc, PeriphRegs.rCyc] at h
  cases State.phase hph <;> simp_all

/-- While the peripheral asks the responder, the host holds (R160, R162, R254). -/
theorem State.hostNext_of_asking (hs : s.inSync) (hf : s.floatHarmless) (h : s.rCyc = true) :
    s.hostNext s.bus = s.host := by
  have hno := State.bus_not_ack hf (State.phase_of_asking hs h)
  rw [State.hostNext]
  obtain ⟨e, -⟩ | ⟨e, -⟩ := State.phase_of_asking hs h
  · rw [HostRegs.next_writeAck _ _ _ _ e, hno]
    exact ite_self _
  · rw [HostRegs.next_readAck _ _ _ _ e, hno]
    exact ite_self _

/-- A busy host stalls (R36). -/
theorem State.wbStall_of_busy (h₁ : s.host.hstate ≠ .idle) (h₂ : s.host.hstate ≠ .wishboneAck) : s.wbStall = true :=
  s.wbStall_iff.mpr (.inl (by simp [h₁, h₂]))

/-- A host that stalls does not complete (R35, R36). -/
theorem State.wbAck_of_wbStall (h : s.wbStall = true) : s.wbAck = false := by
  rw [← Bool.not_eq_true, State.wbAck_iff]
  intro e
  simp [State.wbStall, HostRegs.wbStall, e] at h

/-- At a tick the end that listens takes the byte of the end that sends, by the rule of its state; the memory holds. -/
theorem State.heard_tick (hs : s.inSync) (ht : s.strobe = true) {who : Driver} (e : s.toSend who ≠ []) :
    s.memNext = s.mem ∧
      (who = .host → s.periphNext s.bus = s.periph.hear s.params.periphWidths s.bus) ∧
      (who = .periph → s.hostNext s.bus = s.host.atTick s.params.hostWidths s.bus) := by
  have hask := State.rCyc_of_toSend hs e
  obtain ⟨h₁, h₂⟩ := State.hostBusy_of_toSend hs e
  obtain ⟨hatt, -⟩ := hs
  refine ⟨State.memNext_of_not_asking hask, fun _ => ?_, fun _ => ?_⟩
  · rw [State.periphNext_of_tick ht hatt, PeriphRegs.next_eq_hear hask]
  · rw [State.hostNext_of_strobe ht, HostRegs.next_eq_atTick h₁ h₂]

end Tick

/-! ### Later cycles -/

section Later
variable {s : State}

theorem State.later_add (s : State) (m n : Nat) : s.later (m + n) = (s.later m).later n := by
  induction n with
  | zero => rfl
  | succ n ih => rw [← Nat.add_assoc, State.later, ih, State.later]

theorem State.pins_later (s : State) (n : Nat) : (s.later n).pins = s.pinsAt n := by
  rw [State.pins, State.later_inputs, State.pinsAt, List.headD_eq_head?_getD, List.head?_drop, List.getD_eq_getElem?_getD]

theorem State.pinsAt_later (s : State) (m n : Nat) : (s.later m).pinsAt n = s.pinsAt (m + n) := by
  rw [← State.pins_later, ← State.later_add, State.pins_later]

/-- What is left of a quiet stretch is quiet. -/
theorem State.quietFor_later {m n : Nat} (hq : quietFor (m + n) s.inputs = true) :
    quietFor n (s.later m).inputs = true := by
  rw [State.later_inputs]
  generalize s.inputs = ps at *
  induction m generalizing ps with
  | zero => simpa using hq
  | succ m ih =>
    rw [Nat.succ_add] at hq
    obtain ⟨-, -, htail⟩ := (quietFor_succ _ _).mp hq
    simpa using ih _ htail

/-- The data register of a host keeps within the bytes left to send. -/
theorem State.dataFits_later (hp : refusalOf s.params = none) (h : s.host.dataFits s.params.hostWidths) (n : Nat) :
    (s.later n).host.dataFits s.params.hostWidths := by
  obtain ⟨hw, -⟩ := refusalOf_none.mp hp
  induction n with
  | zero => exact h
  | succ n ih =>
    rw [State.later, State.edgeWith_host, State.hostNext, State.later_params]
    exact HostRegs.dataFits_next hw ih _ _ _

end Later

/-! ### One bus period -/

/-- One bus period after a tick of the undisturbed train is a tick of it (R126, R127). -/
theorem StrobeRegs.onTick_after_period {v : StrobeVariant} {g : StrobeRegs} {c : ConfigRegs}
    (h : g.onTick v c = true) : (StrobeRegs.after v c c.period g).onTick v c = true := by
  have hraw := StrobeRegs.raw_after_onTick h c.period
  rw [Nat.mod_self, decide_eq_true rfl] at hraw
  cases v with
  | modN => exact hraw
  | tapEdge =>
    simp only [StrobeRegs.onTick, Bool.and_eq_true, beq_iff_eq] at h ⊢
    obtain ⟨hctr, -⟩ := h
    refine ⟨?_, (Bool.and_eq_true_iff.mp hraw).2⟩
    rw [StrobeRegs.ctr_after_tapEdge, BitVec.toNat_add, BitVec.toNat_ofNat, Nat.add_mod_mod,
      Nat.mod_mod_of_dvd _ c.period_dvd, Nat.add_mod_right, hctr]

/-- An undisturbed link in step at a tick of an undisturbed strobe train. -/
structure State.SteadyTick (s : State) : Prop extends s.Steady where
  onTick : s.gen.onTick s.params.strobeVariant s.cfg = true

/-- For `n` bus periods after this tick the host stalls and the memory is `m`. -/
def State.StallsFor (s : State) (n : Nat) (m : Memory) : Prop :=
  ∀ c, 0 < c → c ≤ n * s.cfg.period → (s.later c).wbStall = true ∧ (s.later c).mem = m

section Period
variable {s : State}

theorem State.SteadyTick.strobe (h : s.SteadyTick) : s.strobe = true :=
  h.toSteady.strobe_of_onTick h.onTick

/-- One bus period later comes the next tick. -/
theorem State.SteadyTick.next (h : s.SteadyTick) (hq : quietFor s.cfg.period s.inputs = true) :
    (s.later s.cfg.period).SteadyTick where
  toSteady := h.later hq
  onTick := by
    rw [State.later_gen hq, State.later_params, State.later_cfg hq]
    exact StrobeRegs.onTick_after_period h.onTick

/-- `n` bus periods later comes a tick. -/
theorem State.SteadyTick.ahead (h : s.SteadyTick) {n : Nat} (hq : quietFor (n * s.cfg.period) s.inputs = true) :
    (s.later (n * s.cfg.period)).SteadyTick := by
  induction n with
  | zero => rwa [Nat.zero_mul]
  | succ n ih =>
    rw [Nat.succ_mul] at hq ⊢
    have hqn := quietFor_mono (Nat.le_add_right _ _) hq
    have hnext := (ih hqn).next (by rw [State.later_cfg hqn]; exact State.quietFor_later hq)
    rwa [State.later_cfg hqn, ← State.later_add] at hnext

/-- With a busy host nothing moves from one tick to the next but the strobe generator, the schedule and the draws. -/
theorem State.SteadyTick.hold (h : s.SteadyTick) (h₁ : (s.later 1).host.hstate ≠ .idle)
    (h₂ : (s.later 1).host.hstate ≠ .wishboneAck) {c : Nat} (hpos : 0 < c) (hc : c ≤ s.cfg.period)
    (hq : quietFor c s.inputs = true) :
    (s.later c).host = (s.later 1).host ∧ (s.later c).periph = (s.later 1).periph ∧ (s.later c).mem = (s.later 1).mem := by
  induction c, hpos using Nat.le_induction with
  | base => exact ⟨rfl, rfl, rfl⟩
  | succ c hpos ih =>
    have hq' := quietFor_mono c.le_succ hq
    obtain ⟨hhost, hperiph, hmem⟩ := ih (by omega) hq'
    have hno : (s.later c).strobe = false := by
      rw [h.strobe_later h.onTick hq', Nat.mod_eq_of_lt (by omega)]
      exact decide_eq_false (by omega)
    rw [State.later, State.edgeWith_hold (State.later_pins hq).2 hno (by rwa [hhost]) (by rwa [hhost])]
    exact ⟨hhost, hperiph, hmem⟩

/-- A busy host stalls for the bus period, and the memory holds. -/
theorem State.SteadyTick.stallsFor_one (h : s.SteadyTick) (h₁ : (s.later 1).host.hstate ≠ .idle)
    (h₂ : (s.later 1).host.hstate ≠ .wishboneAck) (hq : quietFor s.cfg.period s.inputs = true) :
    s.StallsFor 1 (s.later 1).mem := by
  intro c hpos hc
  rw [Nat.one_mul] at hc
  obtain ⟨hhost, -, hmem⟩ := h.hold h₁ h₂ hpos hc (quietFor_mono hc hq)
  exact ⟨State.wbStall_of_busy (by rwa [hhost]) (by rwa [hhost]), hmem⟩

/-- A stretch of bus periods that starts `a` periods later. -/
theorem State.StallsFor.shift {a b : Nat} {m : Memory} (hb : (s.later (a * s.cfg.period)).StallsFor b m)
    (hq : quietFor (a * s.cfg.period) s.inputs = true) {c : Nat} (hlo : a * s.cfg.period < c)
    (hhi : c ≤ (a + b) * s.cfg.period) : (s.later c).wbStall = true ∧ (s.later c).mem = m := by
  obtain ⟨k, rfl⟩ : ∃ k, c = a * s.cfg.period + k := ⟨c - a * s.cfg.period, by omega⟩
  rw [Nat.add_mul] at hhi
  rw [State.later_add]
  exact hb k (by omega) (by rw [State.later_cfg hq]; omega)

/-- Stretches of bus periods follow each other. -/
theorem State.StallsFor.append {a b : Nat} {m : Memory} (ha : s.StallsFor a m)
    (hb : (s.later (a * s.cfg.period)).StallsFor b m) (hq : quietFor (a * s.cfg.period) s.inputs = true) :
    s.StallsFor (a + b) m := by
  intro c hpos hc
  by_cases hca : c ≤ a * s.cfg.period
  · exact ha c hpos hca
  · exact hb.shift hq (not_le.mp hca) hc

end Period

/-! ### A frame on the wire -/

section Frames
variable {s : State} {who : Driver}

/-- A byte takes a bus period. Meanwhile the host stalls and the memory holds; the tick that ends the period takes the byte off
what the one end has to send, and the other end hears it (R253). -/
theorem State.SteadyTick.sendByte (h : s.SteadyTick) {b : Byte} {bytes : List Byte}
    (hstart : (s.later 1).toSend who = b :: bytes) (hq : quietFor s.cfg.period s.inputs = true) :
    let t := (s.later s.cfg.period).later 1
    s.StallsFor 1 (s.later 1).mem ∧ t.toSend who = bytes ∧ t.mem = (s.later 1).mem ∧
      (who = .host → t.periph = (s.later 1).periph.hear s.params.periphWidths b) ∧
      (who = .periph → t.host = (s.later 1).host.atTick s.params.hostWidths b) := by
  have hpos : 0 < s.cfg.period := Nat.two_pow_pos _
  have hfirst : (s.later 1).inSync := (h.later (quietFor_mono hpos hq)).inSync
  obtain ⟨h₁, h₂⟩ := State.hostBusy_of_toSend hfirst (by rw [hstart]; simp)
  obtain ⟨hhost, hperiph, hmem⟩ := h.hold h₁ h₂ hpos le_rfl hq
  have htick := h.next hq
  have hsend : (s.later s.cfg.period).toSend who = b :: bytes := by
    rw [← hstart]
    cases who <;> simp only [State.toSend, hhost, hperiph, State.later_params]
  have hne : (s.later s.cfg.period).toSend who ≠ [] := by rw [hsend]; simp
  obtain ⟨hmemNext, hperiphNext, hhostNext⟩ := State.heard_tick htick.inSync htick.strobe hne
  obtain ⟨-, hbus⟩ := State.driver_of_toSend htick.inSync hsend
  refine ⟨h.stallsFor_one h₁ h₂ hq, ?_, hmemNext.trans hmem, fun e => ?_, fun e => ?_⟩
  · exact (State.toSend_tick htick.accepted htick.inSync htick.strobe hne).trans (by rw [hsend]; rfl)
  · exact (hperiphNext e).trans (by rw [hbus, hperiph, State.later_params])
  · exact (hhostNext e).trans (by rw [hbus, hhost, State.later_params])

/-- A frame takes a bus period for each byte. Meanwhile the host stalls and the memory holds; in the cycle after it the other
end has heard all its bytes (R253). -/
theorem State.SteadyTick.send (h : s.SteadyTick) {bytes : List Byte} (hstart : (s.later 1).toSend who = bytes)
    (hq : quietFor (bytes.length * s.cfg.period) s.inputs = true) :
    let t := (s.later (bytes.length * s.cfg.period)).later 1
    s.StallsFor bytes.length (s.later 1).mem ∧ t.mem = (s.later 1).mem ∧
      (who = .host → t.periph = bytes.foldl (PeriphRegs.hear s.params.periphWidths) (s.later 1).periph) ∧
      (who = .periph → t.host = bytes.foldl (fun h b => h.atTick s.params.hostWidths b) (s.later 1).host) := by
  induction bytes generalizing s with
  | nil =>
    rw [List.length_nil, Nat.zero_mul]
    exact ⟨fun c hpos hc => by omega, rfl, fun _ => rfl, fun _ => rfl⟩
  | cons b bytes ih =>
    rw [List.length_cons, Nat.add_comm, Nat.add_mul, Nat.one_mul] at hq ⊢
    have hq₁ := quietFor_mono (Nat.le_add_right _ _) hq
    have hcfg := State.later_cfg hq₁
    obtain ⟨hstall, hrest, hmem, hperiph, hhost⟩ := h.sendByte hstart hq₁
    obtain ⟨hstalls, hmemLast, hperiphLast, hhostLast⟩ :=
      ih (h.next hq₁) hrest (by rw [hcfg]; exact State.quietFor_later hq)
    rw [hmem] at hstalls hmemLast
    rw [State.later_params] at hperiphLast hhostLast
    rw [hcfg] at hmemLast hperiphLast hhostLast
    rw [State.later_add s s.cfg.period]
    refine ⟨State.StallsFor.append hstall (by rwa [Nat.one_mul]) (by rwa [Nat.one_mul]), hmemLast, fun e => ?_, fun e => ?_⟩
    · rw [hperiphLast e, hperiph e, List.foldl_cons]
    · rw [hhostLast e, hhost e, List.foldl_cons]

end Frames

/-! ### The wait for the responder -/

section Wait
variable {s : State}

/-- For a bus period in which the peripheral asks the responder, the host stalls and nothing else moves. -/
theorem State.SteadyTick.ask (h : s.SteadyTick) (hask : (s.later 1).rCyc = true)
    (hq : quietFor s.cfg.period s.inputs = true) :
    s.StallsFor 1 (s.later 1).mem ∧ (s.later s.cfg.period).periph = (s.later 1).periph ∧
      (s.later s.cfg.period).mem = (s.later 1).mem := by
  have hpos : 0 < s.cfg.period := Nat.two_pow_pos _
  have hphase := State.phase_of_asking (h.later (quietFor_mono hpos hq)).inSync hask
  have h₁ : (s.later 1).host.hstate ≠ .idle := by obtain ⟨e, -⟩ | ⟨e, -⟩ := hphase <;> simp [e]
  have h₂ : (s.later 1).host.hstate ≠ .wishboneAck := by obtain ⟨e, -⟩ | ⟨e, -⟩ := hphase <;> simp [e]
  obtain ⟨-, hperiph, hmem⟩ := h.hold h₁ h₂ hpos le_rfl hq
  exact ⟨h.stallsFor_one h₁ h₂ hq, hperiph, hmem⟩

/-- A responder that waits `l` peripheral cycles is asked for `l + 1` bus periods. Meanwhile the host stalls, and at the tick
that ends them the peripheral still asks and the memory is as it was (R257). -/
theorem State.SteadyTick.wait (h : s.SteadyTick) (hask : (s.later 1).rCyc = true) {l : Nat}
    (hq : quietFor ((l + 1) * s.cfg.period) s.inputs = true)
    (hno : ∀ j < l, (s.pinsAt ((j + 1) * s.cfg.period)).rAck = false) :
    let t := s.later ((l + 1) * s.cfg.period)
    s.StallsFor (l + 1) (s.later 1).mem ∧ t.periph = (s.later 1).periph ∧ t.mem = (s.later 1).mem := by
  induction l generalizing s with
  | zero =>
    rw [Nat.zero_add, Nat.one_mul] at hq ⊢
    exact h.ask hask hq
  | succ l ih =>
    rw [Nat.add_comm _ 1, Nat.add_mul, Nat.one_mul] at hq ⊢
    have hq₁ := quietFor_mono (Nat.le_add_right _ _) hq
    have hcfg := State.later_cfg hq₁
    obtain ⟨hstall, hperiph, hmem⟩ := h.ask hask hq₁
    have hack : (s.later s.cfg.period).pins.rAck = false := by simpa [State.pins_later] using hno 0 (by omega)
    have hperiphNext : ((s.later s.cfg.period).later 1).periph = (s.later 1).periph :=
      (State.periphNext_of_no_ack (by rwa [State.rCyc, hperiph]) hack _).trans hperiph
    have hmemNext : ((s.later s.cfg.period).later 1).mem = (s.later 1).mem :=
      (State.memNext_of_no_ack hack).trans hmem
    obtain ⟨hstalls, hperiphLast, hmemLast⟩ := ih (h.next hq₁) (by rwa [State.rCyc, hperiphNext])
      (by rw [hcfg]; exact State.quietFor_later hq) (fun j hj => by
        rw [State.pinsAt_later, hcfg]
        simpa [Nat.add_mul, Nat.add_comm] using hno (j + 1) (by omega))
    rw [hmemNext] at hstalls hmemLast
    rw [hperiphNext] at hperiphLast
    rw [hcfg] at hperiphLast hmemLast
    rw [State.later_add s s.cfg.period]
    exact ⟨State.StallsFor.append hstall (by rwa [Nat.one_mul]) (by rwa [Nat.one_mul]), hperiphLast, hmemLast⟩

end Wait

end Sys2Proof.Machine
end

section
/-! PROOFS. WRITE and READ end to end (spec/45_link_and_transactions.md R260, R261, R264). -/

namespace Sys2Proof.Machine

/-! ### The frames of a transaction -/

/-- A frame is its command byte and the payload that byte announces (R99). -/
theorem length_encodeFrame (w : Widths) (f : Frame) : (encodeFrame w f).length = f.command.payloadLength w + 1 := by
  rw [encodeFrame_eq, List.length_cons, length_payload]


/-- The frame of a write on the pins is well formed: operands are cut to their widths (20_memory.md R66). -/
theorem Pins.writeFrame_wf (p : Pins) (w : Widths) : (Frame.write (p.addr w) (p.sel w) (p.data w)).wf w = true := by
  have haddr : p.addr w < 2 ^ w.a := Nat.mod_lt _ (Nat.two_pow_pos _)
  simp only [Frame.wf, haddr, decide_true, Bool.true_and, Bool.and_eq_true, decide_eq_true_eq]
  exact ⟨lowSelect_lt .., lowData_lt ..⟩

theorem Pins.readFrame_wf (p : Pins) (w : Widths) : (Frame.read (p.addr w)).wf w = true :=
  decide_eq_true (Nat.mod_lt _ (Nat.two_pow_pos _))

/-! ### From acceptance to the answer -/

section Transaction
variable {s : State} {n : Nat}

theorem State.acceptsFor.steadyTick (h : s.acceptsFor n) : s.SteadyTick := by
  have hs := h.steady
  obtain ⟨-, -, -, -, ht, -⟩ := h
  exact ⟨hs, ht⟩

/-- In the acceptance cycle the peripheral is idle, hears no command and asks for nothing (R193). -/
theorem State.acceptsFor.idlePeriph (h : s.acceptsFor n) :
    s.periph.pstate = .idle ∧ (s.later 1).periph = s.periph.rest ∧ (s.later 1).mem = s.mem := by
  have ht := h.steadyTick.strobe
  obtain ⟨-, hs, hidle, -⟩ := h
  have ⟨hatt, _, _, hph⟩ := hs
  have hr : s.periph.pstate = .idle := by cases State.phase hph <;> simp_all
  refine ⟨hr, ?_, State.memNext_of_ne (s := s) (by simp [hr])⟩
  rw [State.later, State.later, State.edgeWith_periph, State.periphNext_of_tick ht hatt, PeriphRegs.next_idle hr,
    State.bus_of_hostCmd hs (.inl ⟨hidle, rfl⟩), PeriphRegs.stepIdle_of_ne (by decide) (by decide)]

/-- From the acceptance tick to the tick at which the responder, asked first at tick `k`, acknowledges after `l` peripheral
cycles: the host stalls, the memory holds, and the peripheral then asks for what the bytes of the request say. -/
theorem State.acceptsFor.request (h : s.acceptsFor n) {bytes : List Byte} {asked : PeriphRegs} {k l : Nat}
    (hstart : (s.later 1).toSend .host = bytes)
    (hheard : bytes.foldl (PeriphRegs.hear s.params.hostWidths) s.periph.rest = asked) (hask : asked.rCyc = true)
    (hk : bytes.length + 1 = k) (hn : (k + l) * s.cfg.period ≤ n)
    (hno : ∀ j < l, (s.pinsAt ((k + j) * s.cfg.period)).rAck = false) :
    let t := s.later ((k + l) * s.cfg.period)
    s.StallsFor (k + l) s.mem ∧ t.SteadyTick ∧ t.periph = asked ∧ t.mem = s.mem := by
  subst hk
  have hs := h.steadyTick
  obtain ⟨-, hperiph, hmem⟩ := h.idlePeriph
  obtain ⟨-, ⟨-, hw, -⟩, -, -, -, -, -, hq⟩ := h
  have hqn := quietFor_mono hn hq
  have hsplit : (bytes.length + 1 + l) * s.cfg.period = bytes.length * s.cfg.period + (l + 1) * s.cfg.period := by ring
  have hqb := quietFor_mono (hsplit ▸ Nat.le_add_right _ _) hqn
  have hcfg := State.later_cfg hqb
  obtain ⟨hsends, hsent, hrequest, -⟩ := hs.send hstart hqb
  have hasked : ((s.later (bytes.length * s.cfg.period)).later 1).periph = asked := by
    rw [hrequest rfl, hperiph, ← hw, hheard]
  obtain ⟨hwaits, hperiphLast, hmemLast⟩ := (hs.ahead hqb).wait (l := l) (by rwa [State.rCyc, hasked])
    (by rw [hcfg]; exact State.quietFor_later (hsplit ▸ hqn)) (fun j hj => by
      rw [hcfg, State.pinsAt_later, ← Nat.add_mul, ← hno j hj, Nat.add_assoc, Nat.add_comm 1])
  rw [hsent, hmem] at hwaits hmemLast
  rw [hasked] at hperiphLast
  rw [hcfg, ← State.later_add, ← hsplit] at hperiphLast hmemLast
  rw [hmem] at hsends
  refine ⟨?_, hs.ahead hqn, hperiphLast, hmemLast⟩
  rw [Nat.add_assoc, Nat.add_comm 1]
  exact hsends.append hwaits hqb

/-- From the tick at which the responder acknowledges, the host stalls while the peripheral sends its answer, and then has heard
all its bytes. -/
theorem State.SteadyTick.answer (h : s.SteadyTick) (hask : s.rCyc = true) {bytes : List Byte}
    (hstart : (s.later 1).toSend .periph = bytes) (hq : quietFor (bytes.length * s.cfg.period) s.inputs = true) :
    let t := (s.later (bytes.length * s.cfg.period)).later 1
    s.StallsFor bytes.length s.memNext ∧ t.mem = s.memNext ∧
      t.host = bytes.foldl (fun h b => h.atTick s.params.hostWidths b) s.host := by
  obtain ⟨hstalls, hmem, -, hheard⟩ := h.send hstart hq
  have hhost : (s.later 1).host = s.host := State.hostNext_of_asking h.inSync h.floatHarmless hask
  exact ⟨hstalls, hmem, by rw [hheard rfl, hhost]⟩

/-- From the tick at which the responder acknowledges a write, the write is performed and the host completes after one bus
period (R198, R257, R160). -/
theorem State.SteadyTick.completeWrite (h : s.SteadyTick) (hstate : s.periph.pstate = .writeWishbone)
    (hack : s.pins.rAck = true) (hq : quietFor (1 * s.cfg.period) s.inputs = true) :
    let written := s.mem.writeWord s.periph.paddr s.periph.pdata s.periph.psel s.params.periphWidths.nd
    let t := (s.later (1 * s.cfg.period)).later 1
    s.host.hstate = .writeAck ∧ s.StallsFor 1 written ∧ t.mem = written ∧ t.host = s.host.takeWriteAck := by
  have ⟨hatt, hw, _, hph⟩ := h.inSync
  have hadv : s.pAdv = true := s.pAdv_iff.mpr ⟨h.strobe, hatt⟩
  have hask : s.rCyc = true := s.rCyc_iff.mpr (by simp [hstate])
  have hhost : s.host.hstate = .writeAck := by cases State.phase hph <;> simp_all
  have hmem : s.memNext = s.mem.writeWord s.rAdr s.rDatW s.periph.psel s.params.periphWidths.nd := by
    rw [State.memNext_eq, if_pos ⟨hadv, hstate, hack⟩, State.rSel_eq, if_pos hstate]
  obtain ⟨hstalls, hlast, hheard⟩ := h.answer hask (State.toSend_writeAcked hstate hadv hack _) hq
  rw [hmem] at hstalls hlast
  rw [hw, HostRegs.foldl_atTick_writeAck hhost] at hheard
  exact ⟨hhost, hstalls, hlast, hheard⟩

/-- From the tick at which the responder acknowledges a read with the memory's word, the host completes after a bus period for
READ_ACK and for each byte of the word, and holds the word (R200, R162, R163). -/
theorem State.SteadyTick.completeRead (h : s.SteadyTick) (hstate : s.periph.pstate = .readWishbone)
    (hack : s.pins.rAck = true) (hdat : s.pins.rDatR = none)
    (hq : quietFor ((s.params.periphWidths.nd + 1) * s.cfg.period) s.inputs = true) :
    let t := (s.later ((s.params.periphWidths.nd + 1) * s.cfg.period)).later 1
    s.StallsFor (s.params.periphWidths.nd + 1) s.mem ∧ t.mem = s.mem ∧
      t.host = { s.host with
        hdata := s.mem.readWord s.periph.paddr s.params.periphWidths.nd, hcount := 0, hstate := .wishboneAck } := by
  have ⟨hatt, hw, _, hph⟩ := h.inSync
  have hadv : s.pAdv = true := s.pAdv_iff.mpr ⟨h.strobe, hatt⟩
  have hask : s.rCyc = true := s.rCyc_iff.mpr (by simp [hstate])
  have hhost : s.host.hstate = .readAck := by cases State.phase hph <;> simp_all
  have hmem : s.memNext = s.mem := State.memNext_of_ne (by simp [hstate])
  obtain ⟨-, hwp, -⟩ := refusalOf_none.mp h.accepted
  obtain ⟨-, -, hd, -, hnd⟩ := widths_wf hwp
  have hfit : (s.mem.readWord s.periph.paddr s.params.periphWidths.nd).toNat < 2 ^ s.params.periphWidths.d :=
    hd ▸ Memory.readWord_lt _ _ hnd
  have hword : lowData s.params.periphWidths.d s.rDatR = s.mem.readWord s.periph.paddr s.params.periphWidths.nd := by
    rw [State.rDatR, hdat]
    exact lowData_of_lt hfit
  have hstart := State.toSend_readAcked hstate hadv hack s.bus
  rw [hword] at hstart
  have hlen (d : Data) : (encodeFrame s.params.periphWidths (.readAck d)).length = s.params.periphWidths.nd + 1 :=
    length_encodeFrame ..
  obtain ⟨hstalls, hlast, hheard⟩ := h.answer hask hstart (by rwa [hlen])
  rw [hlen, hmem] at hstalls hlast
  rw [hlen, hw, HostRegs.foldl_atTick_readAck hwp hhost hfit] at hheard
  exact ⟨hstalls, hlast, hheard⟩

/-- Stretches of bus periods, one after the other. -/
theorem State.later_periods {a : Nat} (hq : quietFor (a * s.cfg.period) s.inputs = true) (b : Nat) :
    ((s.later (a * s.cfg.period)).later (b * (s.later (a * s.cfg.period)).cfg.period)).later 1 =
      s.later ((a + b) * s.cfg.period + 1) := by
  rw [State.later_cfg hq, ← State.later_add, ← State.later_add, Nat.add_mul, Nat.add_assoc]

theorem State.quietFor_periods {a b : Nat} (hq : quietFor ((a + b) * s.cfg.period) s.inputs = true) :
    quietFor (b * (s.later (a * s.cfg.period)).cfg.period) (s.later (a * s.cfg.period)).inputs = true := by
  rw [Nat.add_mul] at hq
  rw [State.later_cfg (quietFor_mono (Nat.le_add_right _ _) hq)]
  exact State.quietFor_later hq

/-- In its first cycle too the host stalls, for the request. -/
theorem State.acceptsFor.stalls (h : s.acceptsFor n) {m k : Nat} (hm : s.StallsFor m s.mem) (hk : k ≤ m * s.cfg.period) :
    (s.later k).wbStall = true ∧ (s.later k).mem = s.mem := by
  obtain ⟨-, -, hidle, -, -, hpend, -⟩ := h
  cases k with
  | zero => exact ⟨s.wbStall_iff.mpr (.inr ⟨hidle, (Pins.pending_iff _).mp hpend⟩), rfl⟩
  | succ k => exact hm _ k.succ_pos hk

/-- A host in WISHBONE_ACK completes the request (R35, R36). -/
theorem State.completes_of_wishboneAck (e : s.host.hstate = .wishboneAck) : s.wbAck = true ∧ s.wbStall = false :=
  ⟨s.wbAck_iff.mpr e, (HostRegs.silent_of_wishboneAck e _).1⟩

end Transaction

/-! ### WRITE -/

/-- Settles O56: the request and the wait, in which the memory holds; then the one byte of the answer. -/
theorem writeTransactionEndToEnd : Obligations.WriteTransactionEndToEnd := by
  intro s l w h hwe hwf hresp
  obtain ⟨hno, hyes⟩ := hresp
  have htotal : w.na + w.nd + 4 + l = w.na + w.nd + 3 + l + 1 := by omega
  rw [htotal] at h ⊢
  have hs := h.steadyTick
  have ⟨hp, ⟨_, hw, _⟩, hidle, _, _, hpend, _, hq⟩ := h
  obtain ⟨hr, -⟩ := h.idlePeriph
  obtain ⟨hwh, -⟩ := refusalOf_none.mp hp
  obtain ⟨-, ⟨-, hpdata, -⟩, -⟩ := hwf
  have hqlast := quietFor_mono (Nat.le_succ _) hq
  have hqask := quietFor_mono (Nat.mul_le_mul_right _ (Nat.le_succ _)) hqlast
  have hheard := PeriphRegs.foldl_hear_write (r := s.periph.rest) hwh hr (hw ▸ hpdata) (s.pins.writeFrame_wf w)
  have hlen : (encodeFrame w (.write (s.pins.addr w) (s.pins.sel w) (s.pins.data w))).length + 1 = w.na + w.nd + 3 := by
    rw [length_encodeFrame, Frame.command, Instr.payloadLength]
    omega
  obtain ⟨hstalls, ht, hasked, hmem⟩ := h.request (k := w.na + w.nd + 3)
    (State.toSend_acceptWrite hidle hs.strobe hpend hwe _) hheard rfl
    hlen (Nat.le_succ_of_le (Nat.mul_le_mul_right _ (Nat.le_add_right _ _))) hno
  have hfits := State.dataFits_later hp (HostRegs.dataFits_of_full (by simp [HostRegs.dataLeft, hidle]))
    ((w.na + w.nd + 3 + l) * s.cfg.period)
  obtain ⟨hwait, hanswer, hwritten, hdone⟩ := ht.completeWrite (by rw [hasked]) (by rwa [State.pins_later])
    (State.quietFor_periods hqlast)
  rw [hasked, hmem, State.later_params, ← hw] at hanswer hwritten
  rw [State.later_periods hqask] at hwritten hdone
  obtain ⟨hack, hstall⟩ := State.completes_of_wishboneAck (by rw [hdone]; rfl)
  have hsent := HostRegs.hdata_of_writeAck hfits hwait
  have hdata := (congrArg HostRegs.hdata hdone).trans hsent
  refine ⟨⟨_, hs.reaches_later hq, (hs.later hq).inSync, hack, hstall, hdata, hwritten⟩, fun k hk => ?_⟩
  have hreach := hs.reaches_later (quietFor_mono hk hqlast)
  split_ifs with hle
  · obtain ⟨hstall, hmem⟩ := h.stalls hstalls hle
    exact ⟨_, hreach, State.wbAck_of_wbStall hstall, hstall, hmem⟩
  · obtain ⟨hstall, hmem⟩ := hanswer.shift hqask (not_le.mp hle) hk
    exact ⟨_, hreach, State.wbAck_of_wbStall hstall, hstall, hmem⟩

/-! ### READ -/

/-- Settles O57: the request and the wait, then the answer with the word presented; the memory holds throughout. -/
theorem readTransactionEndToEnd : Obligations.ReadTransactionEndToEnd := by
  intro s l w h hwe hwf hresp hmemory
  obtain ⟨hno, hyes⟩ := hresp
  have htotal : w.na + w.nd + 3 + l = w.na + 2 + l + (w.nd + 1) := by omega
  rw [htotal] at h ⊢
  have hs := h.steadyTick
  have ⟨hp, ⟨_, hw, _⟩, hidle, _, _, hpend, _, hq⟩ := h
  obtain ⟨hr, -⟩ := h.idlePeriph
  obtain ⟨hwh, -⟩ := refusalOf_none.mp hp
  have hqlast := quietFor_mono (Nat.le_succ _) hq
  have hqask := quietFor_mono (Nat.mul_le_mul_right _ (Nat.le_add_right _ _)) hqlast
  have hheard := PeriphRegs.foldl_hear_read (r := s.periph.rest) hwh hr (s.pins.readFrame_wf w)
  obtain ⟨hstalls, ht, hasked, hmem⟩ := h.request (k := w.na + 2)
    (State.toSend_acceptRead hidle hs.strobe hpend hwe _) hheard rfl
    (congrArg (· + 1) (length_encodeFrame ..)) (Nat.le_succ_of_le (Nat.mul_le_mul_right _ (Nat.le_add_right _ _))) hno
  obtain ⟨hanswer, hheld, hdone⟩ := ht.completeRead (by rw [hasked]) (by rwa [State.pins_later])
    (by rwa [State.pins_later]) (by rw [State.later_params, ← hw]; exact State.quietFor_periods hqlast)
  rw [hmem, State.later_params, ← hw] at hanswer hheld
  rw [hasked, hmem, State.later_params, ← hw] at hdone
  rw [State.later_periods hqask] at hheld hdone
  obtain ⟨hack, hstall⟩ := State.completes_of_wishboneAck (by rw [hdone])
  have hdata := congrArg HostRegs.hdata hdone
  refine ⟨⟨_, hs.reaches_later hq, (hs.later hq).inSync, hack, hstall, hdata, hheld⟩, fun k hk => ?_⟩
  obtain ⟨hstall, hmem⟩ := h.stalls (hstalls.append hanswer hqask) hk
  exact ⟨_, hs.reaches_later (quietFor_mono hk hqlast), State.wbAck_of_wbStall hstall, hstall, hmem⟩

end Sys2Proof.Machine
end

section
/-! PROOFS. What does not stop a cycle and what does not end a wait (spec/60_exceptions.md R280, R284, R285). -/

namespace Sys2Proof.Machine

/-- Settles O11: in a live cycle a command's outcome (`exec_live`) and a step's (`step_live`) are clock edges. -/
theorem liveCyclesComplete : Obligations.LiveCyclesComplete :=
  fun _ hs => ⟨fun i => ⟨_, exec_live hs i⟩, _, step_live hs⟩

/-! ### A responder that never acknowledges -/

section Silent
variable {s : State}

/-- A platform byte that is no acknowledgment is harmless in every cycle (R254, R323). -/
theorem State.floatHarmless_of_busFloat (h : ∃ b, s.params.busFloat = some b ∧ b ≠ 0x82 ∧ b ≠ 0x83) :
    s.floatHarmless := by
  obtain ⟨b, hb, hread, hwrite⟩ := h
  rw [State.floatHarmless, State.floatByte, hb, Option.getD_some]
  exact ⟨hread, hwrite⟩

/-- While the peripheral asks the responder, the host stalls (R36, R284). -/
theorem State.wbStall_of_asking (hs : s.inSync) (h : s.rCyc = true) : s.wbStall = true := by
  obtain ⟨e, -⟩ | ⟨e, -⟩ := State.phase_of_asking hs h <;> exact State.wbStall_of_busy (by simp [e]) (by simp [e])

/-- A cycle in which the responder does not acknowledge the standing request leaves both ends, the register
file and the memory (R160, R162, R198, R200, R257), whether or not it is a tick. -/
theorem State.edgeWith_of_no_ack (hs : s.inSync) (hf : s.floatHarmless) (hask : s.rCyc = true)
    (hwe : s.pins.rbWe = false) (hack : s.pins.rAck = false) :
    (s.edgeWith s.bus).host = s.host ∧ (s.edgeWith s.bus).periph = s.periph ∧ (s.edgeWith s.bus).cfg = s.cfg ∧
      (s.edgeWith s.bus).mem = s.mem :=
  ⟨State.hostNext_of_asking hs hf hask, State.periphNext_of_no_ack hask hack _, ConfigRegs.next_hold hwe _,
    State.memNext_of_no_ack hack⟩

end Silent

/-- Settles O59, by induction on the cycles: each of them is a clock edge that leaves both ends waiting
(`State.edgeWith_of_no_ack`) and the link in step. -/
theorem silentResponderHangsTheLink : Obligations.SilentResponderHangsTheLink := by
  intro s n hp hs hstate hf hq hno
  have hask : s.rCyc = true := s.rCyc_iff.mpr (by simpa using hstate)
  induction n generalizing s with
  | zero =>
    have hstall := State.wbStall_of_asking hs hask
    exact ⟨s, (reaches_zero s s).mpr rfl, rfl, rfl, rfl, rfl, hask, hstall, State.wbAck_of_wbStall hstall⟩
  | succ n ih =>
    have hharmless := State.floatHarmless_of_busFloat hf
    obtain ⟨hrst, hwe, hquiet⟩ := (quietFor_succ n _).mp hq
    have hack : s.pins.rAck = false := by simpa using hno 0 n.succ_pos
    have ⟨_, _, _, hphases⟩ := hs
    have hstep := step_live (State.live_of_quiet hp hrst hwe (State.not_both_drive hphases))
    obtain ⟨hhost, hperiph, hcfg, hmem⟩ := State.edgeWith_of_no_ack hs hharmless hask hwe hack
    obtain ⟨t, ht, hrest⟩ := ih (s.edgeWith s.bus) hp (State.inSync_edgeWith hs hharmless) (by rwa [hperiph]) hf hquiet
      (fun k hk => by simpa using hno (k + 1) (Nat.succ_lt_succ hk)) (by rwa [State.rCyc, hperiph])
    rw [hhost, hperiph, hcfg, hmem] at hrest
    exact ⟨t, (reaches_succ n s t).mpr ⟨_, hstep, ht⟩, hrest⟩

end Sys2Proof.Machine
end

section
/-! PROOFS. The reset cycle (spec/70_reset_and_hazards.md R310, R312). -/

namespace Sys2Proof.Machine

section ResetCycle
variable {s : State}

/-- A step with reset is the reset event in every configuration that is run, whatever stands on the bus (R310). -/
theorem step_reset (hp : refusalOf s.params = none) (hr : s.pins.rst = true) : step s = .next s.resetEvent := by
  rw [step_eq_cycle, State.cycle_reset hp hr]

/-- The reset host is in IDLE, so it stalls exactly for a request (R36, R312). -/
theorem HostRegs.wbStall_reset (p : Pins) : HostRegs.reset.wbStall p = (p.wbCyc && p.wbStb) := rfl

/-- The strobe reads the registers that reset sets: with them it is that of the machine right after reset. -/
theorem State.strobe_resetRegs (hv : s.params.strobeVariant = .tapEdge) : s.resetRegs.strobe = false :=
  State.strobe_resetWith (p := s.params) hv

/-- The reset countdown is 0, at which ModN pulses (R127, R312). -/
theorem StrobeRegs.raw_modN_reset (c : ConfigRegs) : StrobeRegs.reset.raw .modN c = true := rfl

end ResetCycle

/-- Settles O52: a reset cycle is the reset event (`step_reset`), and its pins are the signals of the reset registers
(`State.outPins_of_reset`), of which the stall and the strobe alone are not constants of the reset state. -/
theorem resetHasPriority : Obligations.ResetHasPriority := by
  refine ⟨fun s hp hr => ⟨s.resetEvent, step_reset hp hr, rfl, rfl, rfl, rfl, rfl, rfl⟩, fun s hr => ?_⟩
  rw [State.outPins_of_reset hr, State.shown_of_reset hr]
  exact ⟨rfl, rfl, rfl, rfl, rfl, rfl, rfl, HostRegs.wbStall_reset s.pins, State.strobe_resetRegs,
    fun _ => StrobeRegs.raw_modN_reset _⟩

end Sys2Proof.Machine
end
